-- ==== Sys2Proof/Word.lean ====
section
/-! DEFINITION. The word types of the hardware: a byte and a frame (00_scope.md R8, R9). -/

namespace Sys2Proof

/-- A byte: 8 bits, an unsigned number 0 to 255 (R8). -/
abbrev Byte := BitVec 8

/-- A frame, the document's "raw byte buffer": a finite sequence of bytes of any length, offset 0 first (R9). -/
abbrev Frame := List Byte

end Sys2Proof
end

