-- ==== Sys2Proof/Machine/Constants.lean ====
section
/-! DEFINITION. The configuration record: the parameters the document fixes (R6) and the values the spec takes for
those it leaves open (R7). -/

namespace Sys2Proof

/-- The constants of R6 and R7, in one record (D20). The acknowledgement frames of R7 default to the frames built from
the opcode and error-code fields, so that a correction of one of those is one edit. -/
structure Config where
  /-- NUM_PINS (R6). -/
  numPins : Nat
  /-- PACKET_MAX_SIZE: the most bytes of a frame, opcode and payload together (R6). -/
  packetMaxSize : Nat
  opcDigitalData : Byte
  opcDigitalRead : Byte
  opcError : Byte
  opcLedHigh : Byte
  opcLedLow : Byte
  opcPinInit : Byte
  opcPinAck : Byte
  opcPing : Byte
  opcReset : Byte
  opcStartup : Byte
  opcRequest : Byte
  errInvalidPacket : Byte
  errInvalidPin : Byte
  /-- The 2-bit codes of the states; zero-extended to a byte they are the wire codes ST_x (R22). -/
  codeUnused : BitVec 2
  codeLocked : BitVec 2
  codeDigitalIn : BitVec 2
  codeDigitalOut : BitVec 2
  dirIn : Byte
  dirOut : Byte
  lvlLow : Byte
  lvlHigh : Byte
  ledReset : Bool
  /-- PING_ACK: the PING frame echoed (D8). -/
  pingAck : Frame := [opcPing]
  /-- LED_ACK_HIGH: the request echoed (D9). -/
  ledAckHigh : Frame := [opcLedHigh]
  /-- LED_ACK_LOW: the request echoed (D9). -/
  ledAckLow : Frame := [opcLedLow]
  /-- WRONG_DIRECTION_RESPONSE: ERROR(INVALID_PACKET) (D11). -/
  wrongDirectionResponse : Frame := [opcError, errInvalidPacket]
  deriving DecidableEq, Repr

/-- The configuration of R6 and R7. NUM_PINS, PACKET_MAX_SIZE, the opcode and the error-code values are the document's
(§3, §6; the binary literals read most significant bit first, log 12); the others rest on the spec's decisions D5 to D11
(log 10). -/
abbrev config : Config where
  numPins := 70
  packetMaxSize := 100
  opcDigitalData := 0b11101111#8
  opcDigitalRead := 0b00010000#8
  opcError := 0b11111111#8
  opcLedHigh := 0b01010101#8
  opcLedLow := 0b10101010#8
  opcPinInit := 0b11110000#8
  opcPinAck := 0b00001111#8
  opcPing := 0b00011000#8
  opcReset := 0b11000000#8
  opcStartup := 0b11000001#8
  opcRequest := 0b00010111#8
  errInvalidPacket := 0b00000010#8
  errInvalidPin := 0b00000001#8
  codeUnused := 0b00#2
  codeLocked := 0b01#2
  codeDigitalIn := 0b10#2
  codeDigitalOut := 0b11#2
  dirIn := 0x02#8
  dirOut := 0x03#8
  lvlLow := 0x00#8
  lvlHigh := 0x01#8
  ledReset := false

/-- NUM_PINS (R6). -/
abbrev numPins : Nat := config.numPins

/-- PACKET_MAX_SIZE (R6). -/
abbrev packetMaxSize : Nat := config.packetMaxSize

end Sys2Proof
end

