-- ==== Sys2Proof/Config.lean ====
section
/-! DEFINITION. What is fixed for one instance of the hardware: the pin table's type, the open parameters, and the one
free value. The constants are in Machine/Constants.lean. -/

namespace Sys2Proof

/-- The four-valued type PinState of a slot (R20, R21). -/
inductive PinState where
  | unused
  | locked
  | digitalIn
  | digitalOut
  deriving DecidableEq, Repr

/-- The pin table: exactly 70 slots, `PIN[0]` to `PIN[69]` (R20). -/
abbrev PinTable := Vector PinState numPins

/-- REQUEST_POLICY, the open parameter of R7 and R172. -/
inductive RequestPolicy where
  /-- The default the spec documents: respond ERROR(INVALID_PACKET), change nothing (R172). -/
  | errorInvalidPacket
  /-- Any other policy: it answers with a frame of its own, `Config.requestReply` (log 3). -/
  | extension
  deriving DecidableEq, Repr

/-- The open parameters of one instance of the hardware, constant for its life (R7, R32, R226). -/
structure Params where
  /-- LOCKED_PINS: bit i is 1 when pin i is permanently LOCKED; the static port `locked_cfg` (R32, R216). -/
  lockedPins : BitVec numPins
  requestPolicy : RequestPolicy
  deriving DecidableEq, Repr

/-- FREE VALUE (log 3): the frame a REQUEST_POLICY other than the default answers with, given the request's payload
and the pin table. Nothing is known of it; `Machine.execRequest` sends it only where the other rules let the block send
such a frame. The LED is no argument: "LED never influences r" (R226). MODEL'S CHOICE: the whole table is an argument.
R226 lets the table influence a response only through the slot the frame names, and a REQUEST names none; R215 says that
REQUEST might read the table back. The model does not bind a policy of its own by that sentence of R226 (log 3). -/
opaque Config.requestReply : List Byte → PinTable → Frame

end Sys2Proof
end

