-- ==== Sys2Proof/Syntax.lean ====
section
/-! DEFINITION. The instruction set: the eleven opcodes, the packets (one constructor per row of
spec/opcode_table.json), the error codes and the reasons a frame fails to decode. -/

namespace Sys2Proof

/-- The closed set of eleven opcodes (R2, R112), in the order of the opcode table. -/
inductive Opcode where
  | ping
  | reset
  | startup
  | ledHigh
  | ledLow
  | digitalRead
  | error
  | pinInit
  | pinAck
  | digitalData
  | request
  deriving DecidableEq, Repr

/-- A decoded frame, the document's Packet (R81), one constructor per opcode. The payload bytes are kept raw: their
legal values are the controller's business (R116, conflict C9). -/
inductive Instr where
  /-- PING `[18]` (R134). -/
  | ping
  /-- RESET `[C0]` (R132). -/
  | reset
  /-- STARTUP `[C1]` (R130). -/
  | startup
  /-- LED_HIGH `[55]` (R160). -/
  | ledHigh
  /-- LED_LOW `[AA]` (R161). -/
  | ledLow
  /-- DIGITAL_READ `[10 pin]` (R145). -/
  | digitalRead (pin : Byte)
  /-- ERROR `[FF code]` (R170). -/
  | error (code : Byte)
  /-- PIN_INIT `[F0 pin dir]` (R141). -/
  | pinInit (pin dir : Byte)
  /-- PIN_ACK `[0F pin state]` (R143). -/
  | pinAck (pin state : Byte)
  /-- DIGITAL_DATA `[EF pin value]` (R146). -/
  | digitalData (pin value : Byte)
  /-- REQUEST `[17 ...]`, 0 to 99 opaque payload bytes (R171). -/
  | request (payload : List Byte)
  deriving DecidableEq, Repr

/-- The two error codes (R180). -/
inductive ErrorCode where
  | invalidPacket
  | invalidPin
  deriving DecidableEq, Repr

/-- Why a frame fails Decode: the four tests of R111. All four are the one failure value INVALID_PACKET on the link
(R113). -/
inductive DecodeReject where
  /-- The buffer is empty. -/
  | empty
  /-- The buffer exceeds PACKET_MAX_SIZE. -/
  | oversize
  /-- Byte 0 matches no recognised opcode. -/
  | unknownOpcode (byte : Byte)
  /-- The length is not the length the opcode implies. -/
  | wrongLength (op : Opcode) (length : Nat)
  deriving DecidableEq, Repr

end Sys2Proof
end

