-- ==== Sys2Proof/WellFormed.lean ====
section
/-! DEFINITION. Which packets are valid: "1 + len(payload) satisfies the length rule of its opcode" (R81). The ten
fixed-length opcodes carry their payload in the constructor, so only REQUEST's payload can break the rule. -/

namespace Sys2Proof

/-- A valid Packet (R81, R84): a REQUEST has at most 99 payload bytes, any other packet is valid as it stands. -/
def Instr.wellFormed : Instr → Bool
  | .ping => true
  | .reset => true
  | .startup => true
  | .ledHigh => true
  | .ledLow => true
  | .digitalRead _ => true
  | .error _ => true
  | .pinInit _ _ => true
  | .pinAck _ _ => true
  | .digitalData _ _ => true
  | .request payload => decide (1 + payload.length ≤ packetMaxSize)

end Sys2Proof
end

