-- ==== Sys2Proof/Decode.lean ====
section
/-! DEFINITION. The codec: the frame parser and opcode decoder (R111, R112), the frame builder (R114), and the
decoder on words numbered as spec/opcode_table.json numbers them. -/

namespace Sys2Proof

/-! ## The opcode map (R82, R84) -/

/-- ValueOf: the opcode byte (R82, R114). -/
def Opcode.value : Opcode → Byte
  | .ping => config.opcPing
  | .reset => config.opcReset
  | .startup => config.opcStartup
  | .ledHigh => config.opcLedHigh
  | .ledLow => config.opcLedLow
  | .digitalRead => config.opcDigitalRead
  | .error => config.opcError
  | .pinInit => config.opcPinInit
  | .pinAck => config.opcPinAck
  | .digitalData => config.opcDigitalData
  | .request => config.opcRequest

/-- OpcodeOf (R112): the comparison is on all 8 bits; the other 245 byte values select no opcode. -/
def opcodeOf (x : Byte) : Option Opcode :=
  if x = config.opcPinAck then some .pinAck
  else if x = config.opcDigitalRead then some .digitalRead
  else if x = config.opcRequest then some .request
  else if x = config.opcPing then some .ping
  else if x = config.opcLedHigh then some .ledHigh
  else if x = config.opcLedLow then some .ledLow
  else if x = config.opcReset then some .reset
  else if x = config.opcStartup then some .startup
  else if x = config.opcDigitalData then some .digitalData
  else if x = config.opcPinInit then some .pinInit
  else if x = config.opcError then some .error
  else none

/-- LEN(op), the total frame length of a fixed-length opcode; REQUEST has none (R84). -/
def Opcode.fixedLength : Opcode → Option Nat
  | .ping => some 1
  | .reset => some 1
  | .startup => some 1
  | .ledHigh => some 1
  | .ledLow => some 1
  | .digitalRead => some 2
  | .error => some 2
  | .pinInit => some 3
  | .pinAck => some 3
  | .digitalData => some 3
  | .request => none

/-- LenOK(op, n) (R84). -/
def lenOK (op : Opcode) (n : Nat) : Bool :=
  match op.fixedLength with
  | some k => n == k
  | none => decide (1 ≤ n) && decide (n ≤ packetMaxSize)

/-- The host-to-peripheral opcodes (R83); the other four are the peripheral's to send. -/
def Opcode.fromHost : Opcode → Bool
  | .ping => true
  | .reset => true
  | .startup => false
  | .ledHigh => true
  | .ledLow => true
  | .digitalRead => true
  | .error => false
  | .pinInit => true
  | .pinAck => false
  | .digitalData => false
  | .request => true

/-! ## Decode -/

/-- The packet of an opcode and its payload bytes (R81, R85); none where the payload has not the opcode's shape. -/
def Instr.ofPacket (op : Opcode) (payload : List Byte) : Option Instr :=
  match op, payload with
  | .ping, [] => some .ping
  | .reset, [] => some .reset
  | .startup, [] => some .startup
  | .ledHigh, [] => some .ledHigh
  | .ledLow, [] => some .ledLow
  | .digitalRead, [pin] => some (.digitalRead pin)
  | .error, [code] => some (.error code)
  | .pinInit, [pin, dir] => some (.pinInit pin dir)
  | .pinAck, [pin, state] => some (.pinAck pin state)
  | .digitalData, [pin, value] => some (.digitalData pin value)
  | .request, payload => some (.request payload)
  | _, _ => none

/-- Decode on the receive buffer (R111, last part): `n` is RX_LEN, where 101 stands for every longer frame, and
`bytes` are the buffered bytes. The tests stand in the document's order (R113). -/
def decodeBuffer (n : Nat) (bytes : List Byte) : Except DecodeReject Instr :=
  if n = 0 then .error .empty
  else if n > packetMaxSize then .error .oversize
  else
    match bytes with
    | [] => .error .empty
    | b0 :: payload =>
      match opcodeOf b0 with
      | none => .error (.unknownOpcode b0)
      | some op =>
        if lenOK op n then
          match Instr.ofPacket op payload with
          | some i => .ok i
          | none => .error (.wrongLength op n)
        else .error (.wrongLength op n)

/-- Decode(b) (R111): total on every byte sequence of any length. -/
def decode (b : Frame) : Except DecodeReject Instr :=
  decodeBuffer b.length b

/-- Every failure of Decode is INVALID_PACKET (R111, R113). -/
def DecodeReject.code : DecodeReject → ErrorCode
  | .empty => .invalidPacket
  | .oversize => .invalidPacket
  | .unknownOpcode _ => .invalidPacket
  | .wrongLength _ _ => .invalidPacket

/-! ## Encode -/

/-- The opcode of a packet. -/
def Instr.opcode : Instr → Opcode
  | .ping => .ping
  | .reset => .reset
  | .startup => .startup
  | .ledHigh => .ledHigh
  | .ledLow => .ledLow
  | .digitalRead _ => .digitalRead
  | .error _ => .error
  | .pinInit _ _ => .pinInit
  | .pinAck _ _ => .pinAck
  | .digitalData _ _ => .digitalData
  | .request _ => .request

/-- The payload bytes of a packet, in the order of R84. -/
def Instr.payload : Instr → List Byte
  | .ping => []
  | .reset => []
  | .startup => []
  | .ledHigh => []
  | .ledLow => []
  | .digitalRead pin => [pin]
  | .error code => [code]
  | .pinInit pin dir => [pin, dir]
  | .pinAck pin state => [pin, state]
  | .digitalData pin value => [pin, value]
  | .request payload => payload

/-- Encode(op, payload) (R114): the opcode byte, then the payload unchanged. It has a meaning for valid packets only;
the transmit side refuses anything longer (`Machine.respond`). -/
def encode (i : Instr) : Frame :=
  i.opcode.value :: i.payload

/-! ## Words numbered as the opcode table numbers them -/

/-- The first `n` bytes of the word `w`, its least significant byte first. -/
def wordBytes : Nat → Nat → Frame
  | 0, _ => []
  | n + 1, w => BitVec.ofNat 8 w :: wordBytes n (w / 256)

/-- The shortest frame of the opcode that byte 0 selects. -/
def shortestLength (b : Frame) : Nat :=
  match b with
  | [] => 0
  | b0 :: _ =>
    match opcodeOf b0 with
    | none => 1
    | some op => (op.fixedLength).getD 1

/-- The frame of a table word: its `nbits` bits as whole bytes, the first byte on the wire in bits 7 to 0, then zero
bytes up to the length the opcode implies where the table gives its operands no bits (log 14). -/
def tableFrame (nbits w : Nat) : Frame :=
  let b := wordBytes ((nbits + 7) / 8) w
  b ++ List.replicate (shortestLength b - b.length) 0#8

/-- What the decoder reads from a word of spec/opcode_table.json. -/
def decodeTableWord (nbits w : Nat) : Option Instr :=
  match decode (tableFrame nbits w) with
  | .ok i => some i
  | .error _ => none

end Sys2Proof
end

