-- ==== Sys2Proof/Machine/Memory.lean ====
section
/-! DEFINITION. A frame address space (the receive frame, the transmit frame; R38): byte offsets 0 to 99, each
holding a byte or nothing. An offset that is not listed holds nothing, as the bytes past RX_LEN and TX_LEN are "not
defined and no rule reads them" (R34, log 8). -/

namespace Sys2Proof.Machine

/-- The listed cells, in canonical form `Memory.wf`. -/
abbrev Memory := List Host.Cell

/-- Every offset is at least `lo` and below 100, and the offsets rise strictly. -/
def Memory.risingFrom : Nat → Memory → Bool
  | _, [] => true
  | lo, (a, _) :: m => decide (lo ≤ a) && decide (a < packetMaxSize) && Memory.risingFrom (a + 1) m

/-- The canonical form: strictly rising offsets inside the address space. (An unlisted offset reads as nothing, so
no entry can equal what an unlisted offset reads as.) -/
def Memory.wf (m : Memory) : Bool := Memory.risingFrom 0 m

/-- The byte at an offset, if there is one. -/
def Memory.read (m : Memory) (a : Nat) : Option Byte :=
  match m with
  | [] => none
  | (k, b) :: m => if k = a then some b else Memory.read m a

/-- MemWrite(addr, 1, v) (R10). -/
def Memory.write (m : Memory) (a : Nat) (v : Byte) : Memory :=
  match m with
  | [] => [(a, v)]
  | (k, b) :: m =>
    if a < k then (a, v) :: (k, b) :: m
    else if a = k then (a, v) :: m
    else (k, b) :: Memory.write m a v

/-- The bytes written one after the other at rising offsets from `a`. -/
def Memory.store (m : Memory) (a : Nat) : List Byte → Memory
  | [] => m
  | b :: bs => Memory.store (Memory.write m a b) (a + 1) bs

/-- The address space that holds a frame and nothing else: `RX[k] = b[k]`, `TX <- f` (R34, R10). -/
def Memory.ofFrame (b : Frame) : Memory := Memory.store [] 0 b

/-- MemRead byte by byte: the `n` bytes from offset `a` on, or the first offset that holds none, where the read is
not legal (R10). -/
def Memory.load (m : Memory) (a : Nat) : Nat → Except Nat (List Byte)
  | 0 => .ok []
  | n + 1 =>
    match Memory.read m a with
    | none => .error a
    | some b =>
      match Memory.load m (a + 1) n with
      | .error e => .error e
      | .ok bs => .ok (b :: bs)

end Sys2Proof.Machine
end

