-- ==== Sys2Proof/Machine/PinTable.lean ====
section
/-! DEFINITION. The pin table as a store: `get`, `set` and its initialisation. It checks the index and nothing else
(R50). -/

namespace Sys2Proof.Machine

/-- PinTableGet(i) (R52): an index of 70 to 255 fails with INVALID_PIN; no wrap, no mask (R51). -/
def pinTableGet (t : PinTable) (i : Byte) : Except ErrorCode PinState :=
  if h : i.toNat < numPins then .ok t[i.toNat] else .error .invalidPin

/-- PinTableSet(i, s) (R53): only the targeted slot is written; nothing is written on failure. -/
def pinTableSet (t : PinTable) (i : Byte) (st : PinState) : Except ErrorCode PinTable :=
  if h : i.toNat < numPins then .ok (t.set i.toNat st) else .error .invalidPin

/-- InitTable (R211): LOCKED for the pins of LOCKED_PINS, UNUSED for all others. -/
def initTable (lockedPins : BitVec numPins) : PinTable :=
  ⟨((List.finRange numPins).map fun i => if lockedPins.getLsbD i.val then .locked else .unused).toArray, by simp⟩

end Sys2Proof.Machine
end

