-- ==== Sys2Proof/Machine/State.lean ====
section
/-! DEFINITION. The state of the machine as plain data, the reasons it can stop, and the state after hardware
reset. -/

namespace Sys2Proof.Machine

/-- The exchange sequencer PHASE (R33). -/
inductive Phase where
  /-- Hardware reset has happened and the STARTUP frame has not been handed over. -/
  | announce
  /-- Ready to accept one request frame. -/
  | idle
  /-- A request has been accepted; its response has not been handed over. -/
  | busy
  deriving DecidableEq, Repr

/-- What the surroundings drive on the input ports in one step (R216). `locked_cfg` is in `Params`. -/
structure Inputs where
  /-- Hardware reset. -/
  rst : Bool
  /-- The frame at the frame-in port, `rx_valid` with `rx_len` and `rx_data`; a frame of any length (R9). -/
  rxFrame : Option Frame
  /-- The transport takes the frame offered, if one is. -/
  txReady : Bool
  /-- The draw PinLevel: bit i is the level the hardware layer reports for physical pin i in this step (R58, log 4). -/
  pinLevel : BitVec numPins
  deriving DecidableEq, Repr

/-- The ports when the surroundings drive nothing: no reset, no frame, the transport ready (log 5). No pin is sampled
in such a step, since no frame arrives. -/
def Inputs.quiet : Inputs := ⟨false, none, true, 0⟩

/-- The machine's state. -/
structure State where
  /-- The pin table PIN[0..69] (R20). -/
  pin : PinTable
  /-- The status LED latch (R30). -/
  led : Bool
  /-- STARTUP_PENDING (R31). -/
  startupPending : Bool
  /-- PHASE (R33). -/
  phase : Phase
  /-- The receive buffer RX, valid at offsets 0 to RX_LEN-1 (R34, R38). -/
  rx : Memory
  /-- RX_LEN, 0 to 101; 101 stands for every frame of more than 100 bytes (R34). -/
  rxLen : Nat
  /-- The transmit buffer TX, valid at offsets 0 to TX_LEN-1 (R35, R38). -/
  tx : Memory
  /-- TX_LEN, 1 to 100 (R35). -/
  txLen : Nat
  /-- The open parameters LOCKED_PINS and REQUEST_POLICY: configuration, constant (R7, R32). -/
  params : Params
  /-- The values at the input ports in the present step (R216). -/
  ports : Inputs
  /-- MODEL'S OWN: what the surroundings drive in the coming steps, one record a step (log 5). -/
  inputs : List Inputs
  /-- MODEL'S OWN: the frames the transport has taken so far, oldest first. -/
  sent : List Frame
  /-- MODEL'S OWN: the pins sampled so far, oldest first (R58). -/
  sampled : List Nat
  deriving DecidableEq, Repr

/-- Why the machine stops with a fault. No input frame causes one (R188). -/
inductive Fault where
  /-- Raised by `fetch` and `handOver`: a frame buffer is read at an offset that holds no byte, outside what R10 calls
  legal. Safe: the machine stops, and no run from reset reaches it. -/
  | frameOffset (offset : Nat)
  deriving DecidableEq, Repr

/-- Why an instruction has no meaning. -/
inductive Refusal where
  /-- Raised by an arm of `exec` whose instruction has no meaning yet. Safe. -/
  | notModelled (mnemonic : String)
  /-- Raised by `respond`: the frame to send is empty or longer than 100 bytes, so Encode has no meaning for it
  (R114; 93_implementation_defined.md U3). Safe: no instruction reaches it. -/
  | encodeUndefined
  deriving DecidableEq, Repr

/-- The state right after hardware reset (R41), with an empty LOCKED_PINS, the default REQUEST_POLICY, and nothing yet
driven from outside (log 1, log 2, log 7, log 15). -/
def State.reset : State where
  pin := initTable 0
  led := config.ledReset
  startupPending := true
  phase := .announce
  rx := []
  rxLen := 0
  tx := Memory.ofFrame (encode .startup)
  txLen := 1
  params := ⟨0, .errorInvalidPacket⟩
  ports := Inputs.quiet
  inputs := []
  sent := []
  sampled := []

end Sys2Proof.Machine
end

