-- ==== Sys2Proof/Machine/Flags.lean ====
section
/-! DEFINITION. The conditions. "The hardware has no status flags and no condition codes" (R36): nothing is latched,
and no instruction reads or writes a flag. What the hardware tests instead is here: the two equalities of a slot's
state (R120 (d)). The other tests of R120 stand where they are made: the opcode match and the length comparisons in
Decode.lean, the index comparison in Machine/PinTable.lean, the direction match in Machine/Operands.lean. -/

namespace Sys2Proof.Machine

/-- The slot refuses a PIN_INIT (R25, R141). -/
def isLocked (st : PinState) : Bool := st == .locked

/-- The slot allows a DIGITAL_READ (R145). -/
def isDigitalIn (st : PinState) : Bool := st == .digitalIn

end Sys2Proof.Machine
end

