-- ==== Sys2Proof/Machine/Operands.lean ====
section
/-! DEFINITION. The operand forms of the payload bytes: pin, dir, state, value, code (R86 to R90). Every field is one
unsigned byte; a pin index is used as it stands (R86), so it needs no form of its own. -/

namespace Sys2Proof.Machine

/-- The code of a pin state, as stored in two bits and as shown on `pin_state` (R22). -/
def stateCode : PinState → BitVec 2
  | .unused => config.codeUnused
  | .locked => config.codeLocked
  | .digitalIn => config.codeDigitalIn
  | .digitalOut => config.codeDigitalOut

/-- The wire code ST_x: the 2-bit code zero-extended to a byte (R22, R88). -/
def stateByte (st : PinState) : Byte := (stateCode st).setWidth 8

/-- The state a `state` byte names; 0x04 to 0xFF are illegal in this field (R88). -/
def stateOfByte (b : Byte) : Option PinState :=
  if b = stateByte .unused then some .unused
  else if b = stateByte .locked then some .locked
  else if b = stateByte .digitalIn then some .digitalIn
  else if b = stateByte .digitalOut then some .digitalOut
  else none

/-- The state a `dir` byte asks for; every value but DIR_IN and DIR_OUT is illegal (R87). -/
def dirState (d : Byte) : Option PinState :=
  if d = config.dirIn then some .digitalIn
  else if d = config.dirOut then some .digitalOut
  else none

/-- The `value` byte of a sampled level (R89). -/
def levelByte (v : Bool) : Byte := if v then config.lvlHigh else config.lvlLow

/-- The level a `value` byte names; 0x02 to 0xFF are illegal in this field (R89). -/
def levelOfByte (b : Byte) : Option Bool :=
  if b = config.lvlLow then some false else if b = config.lvlHigh then some true else none

/-- The `code` byte of an error code (R90, R180). -/
def errorByte : ErrorCode → Byte
  | .invalidPacket => config.errInvalidPacket
  | .invalidPin => config.errInvalidPin

/-- The error code a `code` byte names; 0x00 and 0x03 to 0xFF are none (R90). -/
def errorOfByte (b : Byte) : Option ErrorCode :=
  if b = config.errInvalidPin then some .invalidPin
  else if b = config.errInvalidPacket then some .invalidPacket
  else none

end Sys2Proof.Machine
end

