-- ==== Sys2Proof/Machine/Ops.lean ====
section
/-! DEFINITION. The shared operations of the controller and of the sequencer: sampling a pin, responding, raising an
error and the return from it, hardware reset, accepting a frame and handing one over. -/

namespace Sys2Proof.Machine

/-- The outcome of a step of this machine. -/
abbrev Result := Host.Outcome State Fault Refusal

/-! ## Controller -/

/-- Sample(i) (R58): the level of physical pin i, a draw of the surroundings, and a record that the pin was read. No
state of the block changes. -/
def sample (i : Byte) (s : State) : Bool × State :=
  (s.ports.pinLevel.getLsbD i.toNat, { s with sampled := s.sampled ++ [i.toNat] })

/-- `TX <- f; TX_LEN <- len(f)` (R10): the transmit space holds the frame and nothing else (log 9). -/
def State.putFrame (s : State) (f : Frame) : State :=
  { s with tx := Memory.ofFrame f, txLen := f.length }

/-- `respond f` (R10): f becomes the response of this exchange. A frame that is empty or over 100 bytes is refused:
Encode has no meaning there (R114, U3). -/
def respond (f : Frame) (s : State) : Result :=
  if 1 ≤ f.length ∧ f.length ≤ packetMaxSize then .next (s.putFrame f) else .refused .encodeUndefined

/-- `raise InvalidPin`, `raise InvalidPacket` (R184, R170), the hardware's trap entry: the response is the ERROR frame
with the code, and nothing else is written. There is no handler and nothing to save. -/
def raise (e : ErrorCode) (s : State) : Result :=
  respond (encode (.error (errorByte e))) s

/-- A peripheral-to-host opcode received as a request (R117): its payload is not examined, no state is written, and the
response is WRONG_DIRECTION_RESPONSE, the ERROR(INVALID_PACKET) frame (R7). -/
def refuseDirection (s : State) : Result :=
  respond config.wrongDirectionResponse s

/-! ## Reset -/

/-- HardwareReset (R210): every piece of state takes its reset value (R41), whatever an exchange in progress had
written (R191). The parameters and the surroundings are outside the block and stay. RX holds nothing after reset
("unspecified", log 7). -/
def State.hardwareReset (s : State) : State :=
  { s with
    pin := initTable s.params.lockedPins
    led := config.ledReset
    startupPending := true
    phase := .announce
    rx := []
    rxLen := 0
    tx := Memory.ofFrame (encode .startup)
    txLen := (encode .startup).length }

/-- The state right after hardware reset of an instance with the parameters `p`, with `ins` to come at its ports. -/
def State.boot (p : Params) (ins : List Inputs) : State :=
  State.hardwareReset { State.reset with params := p, inputs := ins }

/-! ## Sequencer -/

/-- The next values arrive at the input ports; a list that is used up drives nothing (log 5). -/
def State.latch (s : State) : State :=
  match s.inputs with
  | [] => { s with ports := Inputs.quiet }
  | p :: rest => { s with ports := p, inputs := rest }

/-- A request frame is accepted: `PHASE <- BUSY` (R33); RX takes the first 100 bytes and RX_LEN saturates at 101
(R34). -/
def State.accept (s : State) (b : Frame) : State :=
  { s with
    phase := .busy
    rx := Memory.ofFrame (b.take packetMaxSize)
    rxLen := min b.length (packetMaxSize + 1) }

/-- The bytes of the received frame, read from RX (R34, R10). -/
def fetch (s : State) : Except Nat Frame :=
  s.rx.load 0 (min s.rxLen packetMaxSize)

/-- The frame offered at the frame-out port, read from TX (R35, R216). -/
def offered (s : State) : Except Nat Frame :=
  s.tx.load 0 s.txLen

/-- The transport takes the announcement: `STARTUP_PENDING <- 0; PHASE <- IDLE` (R130). -/
def State.announceTaken (s : State) (f : Frame) : State :=
  { s with sent := s.sent ++ [f], startupPending := false, phase := .idle }

/-- The transport takes the response: `PHASE <- IDLE` (R33). The return from an error is the same step (R185). -/
def State.responseTaken (s : State) (f : Frame) : State :=
  { s with sent := s.sent ++ [f], phase := .idle }

end Sys2Proof.Machine
end

