-- ==== Sys2Proof/Machine/ErrorRequest.lean ====
section
/-! DEFINITION. ERROR and REQUEST as requests (44_error_request.md). -/

namespace Sys2Proof.Machine

/-- ERROR received as a request (R117, R170). The block sends it from `raise`. -/
def execError (_code : Byte) (s : State) : Result := refuseDirection s

/-- The packets a REQUEST_POLICY of its own may answer with (log 3). R172 constrains the reply's length only; the rules
on what the block ever sends constrain it further. A response's `pin` byte is the index of the request it answers
(R86), and a REQUEST names no pin; PIN_ACK and DIGITAL_DATA have one use each (R143, R146); STARTUP's two uses are the
announcement and the response to RESET (R130, R131); an ERROR carries one of the two codes (R90, R170). That these rules
bind such a policy, and that it may send the other packets, is the model's choice. -/
def replyAllowed (i : Instr) : Bool :=
  match i with
  | .ping => true
  | .reset => true
  | .startup => false
  | .ledHigh => true
  | .ledLow => true
  | .digitalRead _ => false
  | .error code => (errorOfByte code).isSome
  | .pinInit _ _ => false
  | .pinAck _ _ => false
  | .digitalData _ _ => false
  | .request _ => true

/-- A frame a REQUEST_POLICY of its own may answer with: a valid packet, and one of those of `replyAllowed`. -/
def replyFrame (f : Frame) : Bool :=
  match decode f with
  | .ok i => replyAllowed i
  | .error _ => false

/-- REQUEST (R172): REQUEST_POLICY(payload). The default raises InvalidPacket and examines nothing. Any other policy
answers with a frame of its own and writes no slot and not the LED (R23, R30). MODEL'S CHOICE (log 3): a reply that is
no valid packet, or a packet the other rules give another use or never let the block send (`replyAllowed`: a PIN_ACK, a
DIGITAL_DATA, an illegal error code), is no policy the general rules allow, and is answered as the default. -/
def execRequest (payload : List Byte) (s : State) : Result :=
  match s.params.requestPolicy with
  | .errorInvalidPacket => raise .invalidPacket s
  | .extension =>
    if replyFrame (Config.requestReply payload s.pin) then respond (Config.requestReply payload s.pin) s
    else raise .invalidPacket s

end Sys2Proof.Machine
end

