-- ==== Sys2Proof/Machine/Led.lean ====
section
/-! DEFINITION. LED_HIGH, LED_LOW (43_led_commands.md). -/

namespace Sys2Proof.Machine

/-- LED_HIGH (R160): `LED <- 1`, respond LED_ACK_HIGH, the frame echoed. -/
def execLedHigh (s : State) : Result := respond config.ledAckHigh { s with led := true }

/-- LED_LOW (R161): `LED <- 0`, respond LED_ACK_LOW, the frame echoed. -/
def execLedLow (s : State) : Result := respond config.ledAckLow { s with led := false }

end Sys2Proof.Machine
end

