-- ==== Sys2Proof/Machine/PinCommands.lean ====
section
/-! DEFINITION. PIN_INIT, PIN_ACK, DIGITAL_READ, DIGITAL_DATA as requests (42_pin_commands.md). The checks stand in
the order of R140: payload values, then the index, then the slot's state; only then is anything written or sampled. -/

namespace Sys2Proof.Machine

/-- PIN_INIT (R141). The PIN_ACK carries the index and the wire code of the new state, which is the direction byte
itself (R87, R88). -/
def execPinInit (pin dir : Byte) (s : State) : Result :=
  match dirState dir with
  | none => raise .invalidPacket s
  | some st =>
    match pinTableGet s.pin pin with
    | .error e => raise e s
    | .ok now =>
      if isLocked now then raise .invalidPin s
      else
        match pinTableSet s.pin pin st with
        | .error e => raise e s
        | .ok t => respond (encode (.pinAck pin (stateByte st))) { s with pin := t }

/-- PIN_ACK received as a request (R117, R143). The block sends it from `execPinInit`. -/
def execPinAck (_pin _state : Byte) (s : State) : Result := refuseDirection s

/-- DIGITAL_READ (R145): the pin is sampled once, and only when both checks have passed (R58). -/
def execDigitalRead (pin : Byte) (s : State) : Result :=
  match pinTableGet s.pin pin with
  | .error e => raise e s
  | .ok now =>
    if isDigitalIn now then
      match sample pin s with
      | (v, s') => respond (encode (.digitalData pin (levelByte v))) s'
    else raise .invalidPin s

/-- DIGITAL_DATA received as a request (R117, R146): it drives no pin. The block sends it from `execDigitalRead`. -/
def execDigitalData (_pin _value : Byte) (s : State) : Result := refuseDirection s

end Sys2Proof.Machine
end

