-- ==== Sys2Proof/Machine/System.lean ====
section
/-! DEFINITION. STARTUP, RESET, PING as requests (41_system_commands.md). -/

namespace Sys2Proof.Machine

/-- PING (R134): respond PING_ACK, the PING frame echoed; no state is read or written. -/
def execPing (s : State) : Result := respond config.pingAck s

/-- RESET (R132): InitTable, then respond STARTUP. The LED and STARTUP_PENDING keep their values (R212). -/
def execReset (s : State) : Result :=
  respond (encode .startup) { s with pin := initTable s.params.lockedPins }

/-- STARTUP received as a request (R117, R131). The block's own STARTUP frames are `State.hardwareReset`, with
`State.announceTaken` (R130), and `execReset` (R131). -/
def execStartup (s : State) : Result := refuseDirection s

end Sys2Proof.Machine
end

