-- ==== Sys2Proof/Machine/Dispatch.lean ====
section
/-! DEFINITION. Execute(p), the controller's dispatch: one arm per opcode, no default arm (R116). -/

namespace Sys2Proof.Machine

def exec (i : Instr) (s : State) : Host.Outcome State Fault Refusal :=
  match i with
  | .ping => Sys2Proof.Machine.execPing s
  | .reset => Sys2Proof.Machine.execReset s
  | .startup => Sys2Proof.Machine.execStartup s
  | .ledHigh => Sys2Proof.Machine.execLedHigh s
  | .ledLow => Sys2Proof.Machine.execLedLow s
  | .digitalRead pin => Sys2Proof.Machine.execDigitalRead pin s
  | .error code => Sys2Proof.Machine.execError code s
  | .pinInit pin dir => Sys2Proof.Machine.execPinInit pin dir s
  | .pinAck pin state => Sys2Proof.Machine.execPinAck pin state s
  | .digitalData pin value => Sys2Proof.Machine.execDigitalData pin value s
  | .request payload => Sys2Proof.Machine.execRequest payload s

end Sys2Proof.Machine
end

