-- ==== Sys2Proof/Machine/Exchange.lean ====
section
/-! DEFINITION. One exchange and the sequencer (R110, R226), and the output ports (R216). -/

namespace Sys2Proof.Machine

/-- Exchange (R110) of the frame in RX: decode it, then execute the packet or answer the decode failure. -/
def exchange (s : State) : Result :=
  match fetch s with
  | .error a => .fault (.frameOffset a)
  | .ok b =>
    match decodeBuffer s.rxLen b with
    | .error r => raise r.code s
    | .ok i => exec i s

/-- The frame offered is handed to the transport, which leads to `after`. -/
def handOver (after : State → Frame → State) (s : State) : Result :=
  match offered s with
  | .error a => .fault (.frameOffset a)
  | .ok f => .next (after s f)

/-- One step of the block under the values now at its ports (R226). Hardware reset wins (R191). A frame is accepted
only in IDLE (R219), decoded and executed to completion (R217); its response is offered in BUSY until the transport
takes it (R187). -/
def cycle (s : State) : Result :=
  if s.ports.rst then .next s.hardwareReset
  else
    match s.phase with
    | .announce => if s.ports.txReady then handOver State.announceTaken s else .next s
    | .idle =>
      match s.ports.rxFrame with
      | none => .next s
      | some b => exchange (s.accept b)
    | .busy => if s.ports.txReady then handOver State.responseTaken s else .next s

/-- The state in which the very next step accepts and runs the frame `b`: the announcement has been taken, no exchange
is in progress, and the frame comes at the port in the next step (log 13). -/
def State.withFrame (s : State) (b : Frame) : State :=
  { s with
    startupPending := false
    phase := .idle
    inputs := ⟨false, some b, true, s.ports.pinLevel⟩ :: s.inputs }

/-! ## Output ports (R216) -/

/-- `rx_ready` is 1 exactly when PHASE = IDLE. -/
def State.rxReady (s : State) : Bool := s.phase == .idle

/-- `tx_valid`: a frame is offered in ANNOUNCE, and in BUSY, where the response is built before the step ends. -/
def State.txValid (s : State) : Bool := s.phase == .announce || s.phase == .busy

/-- `tx_len`. -/
def State.txLenOut (s : State) : BitVec 7 := BitVec.ofNat 7 s.txLen

/-- `tx_data[k]`, where the frame offered has a byte k. -/
def State.txData (s : State) (k : Nat) : Option Byte := s.tx.read k

/-- `rx_len` of the frame at the port, 101 for anything longer than 100. -/
def Inputs.rxLenIn (p : Inputs) : Option (BitVec 7) :=
  p.rxFrame.map fun b => BitVec.ofNat 7 (min b.length (packetMaxSize + 1))

/-- `pin_state[i]`: the table itself, coded as in R22, with no delay (R65). -/
def State.pinState (s : State) (i : Fin numPins) : BitVec 2 := stateCode s.pin[i]

/-- `led` equals the latch at all times (R162). -/
def State.ledOut (s : State) : Bool := s.led

end Sys2Proof.Machine
end

