-- ==== Sys2Proof/Machine/Step.lean ====
section
/-! DEFINITION. The step function, and the state in which the next step runs a given instruction word. -/

namespace Sys2Proof.Machine

/-- One step: the next values arrive at the input ports, then the block takes one step under them. -/
def step (s : State) : Host.Outcome State Fault Refusal := cycle s.latch

/-- The state in which the very next step runs the instruction of the table word `w`. -/
def State.withFetchWord (s : State) (nbits w : Nat) : State := s.withFrame (tableFrame nbits w)

end Sys2Proof.Machine
end

