-- ==== Sys2Proof/Machine/Text.lean ====
section
/-! DEFINITION. The textual syntax of packets and frames (R94). No rule of behaviour uses it. -/

namespace Sys2Proof.Machine

/-- The name of an opcode, as the opcode table spells it. -/
def opcodeName : Opcode → String
  | .ping => "PING"
  | .reset => "RESET"
  | .startup => "STARTUP"
  | .ledHigh => "LED_HIGH"
  | .ledLow => "LED_LOW"
  | .digitalRead => "DIGITAL_READ"
  | .error => "ERROR"
  | .pinInit => "PIN_INIT"
  | .pinAck => "PIN_ACK"
  | .digitalData => "DIGITAL_DATA"
  | .request => "REQUEST"

/-- The name of a pin state. -/
def stateName : PinState → String
  | .unused => "UNUSED"
  | .locked => "LOCKED"
  | .digitalIn => "DIGITAL_IN"
  | .digitalOut => "DIGITAL_OUT"

/-- The name of an error code. -/
def errorName : ErrorCode → String
  | .invalidPacket => "INVALID_PACKET"
  | .invalidPin => "INVALID_PIN"

/-- IN or OUT; the other states are no direction. -/
def directionName : PinState → Option String
  | .unused => none
  | .locked => none
  | .digitalIn => some "IN"
  | .digitalOut => some "OUT"

/-- A byte as two hexadecimal digits. -/
def hexByte (b : Byte) : String :=
  String.ofList [(Nat.digitChar (b.toNat / 16)).toUpper, (Nat.digitChar (b.toNat % 16)).toUpper]

/-- A frame as hex bytes in brackets, `[F0 05 03]`. -/
def frameText (b : Frame) : String := "[" ++ String.intercalate " " (b.map hexByte) ++ "]"

/-- `NAME(field=value, ...)` (R94). A packet with an illegal field value has no text. -/
def packetText (i : Instr) : Option String :=
  let name := opcodeName i.opcode
  match i with
  | .ping => some name
  | .reset => some name
  | .startup => some name
  | .ledHigh => some name
  | .ledLow => some name
  | .digitalRead pin => some (name ++ "(pin=" ++ toString pin.toNat ++ ")")
  | .error code => (errorOfByte code).map fun e => name ++ "(" ++ errorName e ++ ")"
  | .pinInit pin dir =>
    ((dirState dir).bind directionName).map fun d => name ++ "(pin=" ++ toString pin.toNat ++ ", direction=" ++ d ++ ")"
  | .pinAck pin state =>
    (stateOfByte state).map fun st => name ++ "(pin=" ++ toString pin.toNat ++ ", state=" ++ stateName st ++ ")"
  | .digitalData pin value =>
    (levelOfByte value).map fun v =>
      name ++ "(pin=" ++ toString pin.toNat ++ ", value=" ++ (if v then "1" else "0") ++ ")"
  | .request [] => some name
  | .request (b :: bs) => some (name ++ "(" ++ String.intercalate ", " ((b :: bs).map hexByte) ++ ")")

end Sys2Proof.Machine
end

