-- ==== Sys2Proof/Safety.lean ====
section
/-! DEFINITION. What counts as a safe run: the frames the block may send, the invariant of the machine, the reachable
states; and the complete request-to-response map of R118 written over raw bytes, beside the machine. -/

namespace Sys2Proof.Machine

/-! ## Frames the block may send -/

/-- The set of frames of R118, byte by byte: `[18]`, `[C1]`, `[55]`, `[AA]`, `[FF 01]`, `[FF 02]`, and with i below 70
`[0F i 02]`, `[0F i 03]`, `[EF i 00]`, `[EF i 01]`. -/
def sendable (f : Frame) : Bool :=
  match f with
  | [op] => op == 0x18#8 || op == 0xC1#8 || op == 0x55#8 || op == 0xAA#8
  | [op, x] => op == 0xFF#8 && (x == 0x01#8 || x == 0x02#8)
  | [op, i, x] =>
    decide (i.toNat < 70) &&
      ((op == 0x0F#8 && (x == 0x02#8 || x == 0x03#8)) || (op == 0xEF#8 && (x == 0x00#8 || x == 0x01#8)))
  | _ => false

/-- A frame that is a valid packet (R81). -/
def isPacket (f : Frame) : Bool :=
  match decode f with
  | .ok _ => true
  | .error _ => false

/-- The frames the block may send: those of R118, and under a REQUEST_POLICY of its own the replies of `replyFrame`
(log 3). -/
def lawful (policy : RequestPolicy) (f : Frame) : Bool :=
  match policy with
  | .errorInvalidPacket => sendable f
  | .extension => sendable f || replyFrame f

/-! ## The invariant -/

/-- R26: a slot is LOCKED exactly when LOCKED_PINS names it. -/
abbrev LockedConstant (s : State) : Prop :=
  ∀ i : Fin numPins, s.pin[i] = .locked ↔ s.params.lockedPins.getLsbD i.val = true

/-- R31: STARTUP_PENDING is 1 exactly in PHASE = ANNOUNCE. -/
abbrev StartupMatchesPhase (s : State) : Prop :=
  s.startupPending = true ↔ s.phase = .announce

/-- R34, R38: RX_LEN is at most 101, and RX lists exactly the offsets below RX_LEN and below 100, in order. -/
abbrev RxFits (s : State) : Prop :=
  s.rxLen ≤ 101 ∧ s.rx.map Prod.fst = List.range (min s.rxLen 100)

/-- R35, R38: TX_LEN is 1 to 100, and TX lists exactly the offsets below TX_LEN, in order. -/
abbrev TxFits (s : State) : Prop :=
  1 ≤ s.txLen ∧ s.txLen ≤ 100 ∧ s.tx.map Prod.fst = List.range s.txLen

/-- The frame in TX. -/
def txFrame (s : State) : Frame := s.tx.map Prod.snd

/-- R130: the frame offered in ANNOUNCE is STARTUP. R118: the frame offered in BUSY is one the block may send. -/
abbrev OffersLawfully (s : State) : Prop :=
  match s.phase with
  | .announce => txFrame s = [0xC1#8]
  | .idle => True
  | .busy => lawful s.params.requestPolicy (txFrame s) = true

/-- R118: every frame sent so far is one the block may send. -/
abbrev SentLawfully (s : State) : Prop :=
  ∀ f ∈ s.sent, lawful s.params.requestPolicy f = true

/-- The invariant of the machine. -/
structure Inv (s : State) : Prop where
  locked : LockedConstant s
  startup : StartupMatchesPhase s
  rxFits : RxFits s
  txFits : TxFits s
  offers : OffersLawfully s
  sent : SentLawfully s

/-! ## Runs -/

/-- The states of a run: the state after hardware reset, for any parameters and any behaviour of the surroundings, and
what steps lead to. -/
inductive Reachable : State → Prop where
  | boot (p : Params) (ins : List Inputs) : Reachable (State.boot p ins)
  | step {s t : State} (hs : Reachable s) (ht : step s = .next t) : Reachable t

/-! ## The map of R118 over raw bytes -/

/-- What an exchange leaves and answers. -/
structure Answer where
  pin : PinTable
  led : Bool
  response : Frame
  deriving DecidableEq, Repr

/-- "all UNUSED except permanently LOCKED pins" (R132, R211). -/
def startupTable (lockedPins : BitVec numPins) : PinTable :=
  Vector.ofFn fun i => if lockedPins.getLsbD i.val then .locked else .unused

/-- The complete map of R118 under the default REQUEST_POLICY, read off its rows: the request frame is matched by its
bytes and its length, with no decoder. -/
def requestMap (lockedPins level : BitVec numPins) (pin : PinTable) (led : Bool) (b : Frame) : Answer :=
  match b with
  | [op] =>
    if op = 0x18#8 then ⟨pin, led, [0x18#8]⟩
    else if op = 0xC0#8 then ⟨startupTable lockedPins, led, [0xC1#8]⟩
    else if op = 0x55#8 then ⟨pin, true, [0x55#8]⟩
    else if op = 0xAA#8 then ⟨pin, false, [0xAA#8]⟩
    else ⟨pin, led, [0xFF#8, 0x02#8]⟩
  | [op, i] =>
    if op = 0x10#8 then
      if pin[i.toNat]? = some .digitalIn then
        ⟨pin, led, [0xEF#8, i, if level.getLsbD i.toNat then 0x01#8 else 0x00#8]⟩
      else ⟨pin, led, [0xFF#8, 0x01#8]⟩
    else ⟨pin, led, [0xFF#8, 0x02#8]⟩
  | [op, i, d] =>
    if op = 0xF0#8 ∧ (d = 0x02#8 ∨ d = 0x03#8) then
      if 70 ≤ i.toNat ∨ pin[i.toNat]? = some .locked then ⟨pin, led, [0xFF#8, 0x01#8]⟩
      else
        ⟨pin.setIfInBounds i.toNat (if d = 0x02#8 then .digitalIn else .digitalOut), led, [0x0F#8, i, d]⟩
    else ⟨pin, led, [0xFF#8, 0x02#8]⟩
  | _ => ⟨pin, led, [0xFF#8, 0x02#8]⟩

end Sys2Proof.Machine
end

