-- ==== Sys2Proof/Certificates/Slice0/Obligations.lean ====
section
/-! DEFINITION. The statements for the provers, read off the numbered rules of spec/. Frames are written as bytes. -/

open Sys2Proof Sys2Proof.Machine

/-! ## The codec -/

/-- One frame of every opcode, written out from R82 and R85, decodes to its packet; three frames that are none do not. The
layouts are the spec's decision D3. -/
def Obligations.SpecWordsDecode : Prop :=
  decode [0b00011000#8] = .ok .ping ∧
  decode [0b11000000#8] = .ok .reset ∧
  decode [0b11000001#8] = .ok .startup ∧
  decode [0b01010101#8] = .ok .ledHigh ∧
  decode [0b10101010#8] = .ok .ledLow ∧
  decode [0b00010000#8, 5#8] = .ok (.digitalRead 5#8) ∧
  decode [0b11111111#8, 1#8] = .ok (.error 1#8) ∧
  decode [0b11110000#8, 5#8, 3#8] = .ok (.pinInit 5#8 3#8) ∧
  decode [0b00001111#8, 5#8, 3#8] = .ok (.pinAck 5#8 3#8) ∧
  decode [0b11101111#8, 5#8, 1#8] = .ok (.digitalData 5#8 1#8) ∧
  decode [0b00010111#8, 0xDE#8, 0xAD#8] = .ok (.request [0xDE#8, 0xAD#8]) ∧
  decode [] = .error .empty ∧
  decode [0x19#8] = .error (.unknownOpcode 0x19#8) ∧
  decode [0xF0#8, 5#8] = .error (.wrongLength .pinInit 2)

/-- OpcodeOf (R112): the eleven byte values and no other. -/
def Obligations.OpcodeOfMatchesElevenBytes : Prop :=
  ∀ (x : Byte) (op : Opcode), opcodeOf x = some op ↔
    (x, op) ∈ [(0x0F#8, Opcode.pinAck), (0x10#8, .digitalRead), (0x17#8, .request), (0x18#8, .ping),
      (0x55#8, .ledHigh), (0xAA#8, .ledLow), (0xC0#8, .reset), (0xC1#8, .startup), (0xEF#8, .digitalData),
      (0xF0#8, .pinInit), (0xFF#8, .error)]

/-- Decode (R111): it succeeds exactly when the frame is not empty, has at most 100 bytes, its first byte is an opcode
and its length is the one the opcode implies; the packet has that opcode and the other bytes as its payload; every
failure is INVALID_PACKET; and on the receive buffer, where RX_LEN saturates at 101 and 100 bytes are kept, it gives the
same. -/
def Obligations.DecodeAcceptsExactlyValidFrames : Prop :=
  (∀ (b : Frame) (i : Instr), decode b = .ok i ↔
    b.length ≤ 100 ∧ ∃ b0 payload, b = b0 :: payload ∧ opcodeOf b0 = some i.opcode ∧
      lenOK i.opcode b.length = true ∧ i.payload = payload) ∧
  (∀ (b : Frame), b.length ≤ 100 → (∃ b0 payload op, b = b0 :: payload ∧ opcodeOf b0 = some op ∧
      lenOK op b.length = true) → ∃ i, decode b = .ok i) ∧
  (∀ (b : Frame) (r : DecodeReject), decode b = .error r → r.code = .invalidPacket) ∧
  (∀ b : Frame, decodeBuffer (min b.length 101) (b.take 100) = decode b)

/-- LEN (R84, the spec's decision D3): the frame lengths each opcode allows. -/
def Obligations.LengthsOfOpcodes : Prop :=
  ∀ n : Nat,
    (∀ op ∈ [Opcode.ping, .reset, .startup, .ledHigh, .ledLow], lenOK op n = true ↔ n = 1) ∧
    (∀ op ∈ [Opcode.digitalRead, .error], lenOK op n = true ↔ n = 2) ∧
    (∀ op ∈ [Opcode.pinInit, .pinAck, .digitalData], lenOK op n = true ↔ n = 3) ∧
    (lenOK .request n = true ↔ 1 ≤ n ∧ n ≤ 100)

/-- The round trip (R115) for every valid packet, with every operand at every value; the other way round for every
frame that decodes; so Decode is injective on the frames it accepts. -/
def Obligations.DecodeEncodeAgree : Prop :=
  (∀ i : Instr, i.wellFormed = true → decode (encode i) = .ok i) ∧
  (∀ (b : Frame) (i : Instr), decode b = .ok i → i.wellFormed = true ∧ encode i = b) ∧
  (∀ (b c : Frame) (i : Instr), decode b = .ok i → decode c = .ok i → b = c)

/-- REQUEST decodes with any payload of 0 to 99 bytes and with no longer one (R171, the spec's decision D10). -/
def Obligations.RequestDecodesAtEveryLength : Prop :=
  ∀ payload : List Byte,
    (payload.length ≤ 99 → decode (0x17#8 :: payload) = .ok (.request payload)) ∧
    (99 < payload.length → decode (0x17#8 :: payload) = .error .oversize)

/-- The operand codes (R22, R87 to R90): states 0 to 3, directions 2 and 3, levels 0 and 1, error codes 1 and 2, and
nothing else; and the bytes the block writes for a state, a level and an error code are those. All but the error codes
are the spec's decisions D5 to D7. -/
def Obligations.OperandCodes : Prop :=
  (∀ (b : Byte) (st : PinState), stateOfByte b = some st ↔
    (b, st) ∈ [(0x00#8, PinState.unused), (0x01#8, .locked), (0x02#8, .digitalIn), (0x03#8, .digitalOut)]) ∧
  (∀ st : PinState, stateOfByte (stateByte st) = some st) ∧
  (∀ (b : Byte) (st : PinState), dirState b = some st ↔
    (b, st) ∈ [(0x02#8, PinState.digitalIn), (0x03#8, .digitalOut)]) ∧
  (∀ (b : Byte) (v : Bool), levelOfByte b = some v ↔ (b, v) ∈ [(0x00#8, false), (0x01#8, true)]) ∧
  (∀ (b : Byte) (e : ErrorCode), errorOfByte b = some e ↔
    (b, e) ∈ [(0x01#8, ErrorCode.invalidPin), (0x02#8, .invalidPacket)]) ∧
  (∀ v : Bool, levelByte v = if v = true then 0x01#8 else 0x00#8) ∧
  errorByte .invalidPin = 0x01#8 ∧ errorByte .invalidPacket = 0x02#8

/-! ## The pin table -/

/-- PinTableGet (R52): the slot of an index below 70, INVALID_PIN for every other byte. -/
def Obligations.PinTableGetReadsOrFails : Prop :=
  ∀ (t : PinTable) (i : Byte),
    (∀ h : i.toNat < 70, pinTableGet t i = .ok t[i.toNat]) ∧
    (70 ≤ i.toNat → pinTableGet t i = .error .invalidPin)

/-- PinTableSet (R53, R51): only the targeted slot is written; an index of 70 or more fails and writes nothing. -/
def Obligations.PinTableSetWritesOneSlot : Prop :=
  ∀ (t : PinTable) (i : Byte) (st : PinState),
    (i.toNat < 70 → ∃ u, pinTableSet t i st = .ok u ∧
      ∀ j (hj : j < 70), u[j] = if j = i.toNat then st else t[j]) ∧
    (70 ≤ i.toNat → pinTableSet t i st = .error .invalidPin)

/-- InitTable (R211): for every i below 70, slot i is LOCKED if i is in LOCKED_PINS, else UNUSED. -/
def Obligations.InitTableLocksExactlyLockedPins : Prop :=
  ∀ (locked : BitVec 70) (i : Nat) (h : i < 70),
    (initTable locked)[i] = if locked.getLsbD i = true then .locked else .unused

/-! ## What each instruction does -/

/-- PING (R134): the response is `[18]` and nothing else is written; `[18 00]` is no PING. That PING is acknowledged by
its own frame is the spec's decision D8. -/
def Obligations.PingEchoes : Prop :=
  (∀ s : State, exec .ping s = .next { s with tx := Memory.ofFrame [0x18#8], txLen := 1 }) ∧
  ∃ r, decode [0x18#8, 0x00#8] = .error r

/-- LED_HIGH (R160): LED <- 1 and the response `[55]`, nothing else, in every state; `[55 00]` is no LED_HIGH. The
response is the spec's decision D9. -/
def Obligations.LedHighSetsLatch : Prop :=
  (∀ s : State, exec .ledHigh s = .next { s with led := true, tx := Memory.ofFrame [0x55#8], txLen := 1 }) ∧
  ∃ r, decode [0x55#8, 0x00#8] = .error r

/-- LED_LOW (R161): LED <- 0 and the response `[AA]`, nothing else, in every state; `[AA 00]` is no LED_LOW. The
response is the spec's decision D9. -/
def Obligations.LedLowClearsLatch : Prop :=
  (∀ s : State, exec .ledLow s = .next { s with led := false, tx := Memory.ofFrame [0xAA#8], txLen := 1 }) ∧
  ∃ r, decode [0xAA#8, 0x00#8] = .error r

/-- RESET (R132): all 70 slots to their reset values, the response `[C1]`, nothing else; `[C0 00]` is no RESET. That the
LED keeps its value is the spec's decision D9. -/
def Obligations.ResetCommandReinitialises : Prop :=
  (∀ s : State, ∃ table : PinTable,
    exec .reset s = .next { s with pin := table, tx := Memory.ofFrame [0xC1#8], txLen := 1 } ∧
    ∀ i (h : i < 70), table[i] = if s.params.lockedPins.getLsbD i = true then .locked else .unused) ∧
  ∃ r, decode [0xC0#8, 0x00#8] = .error r

/-- RESET is idempotent on the pin table (R133): two in sequence leave the contents one leaves, and both respond
`[C1]`. -/
def Obligations.ResetTwiceIsResetOnce : Prop :=
  ∀ s : State, ∃ t u, exec .reset s = .next t ∧ exec .reset t = .next u ∧ u.pin = t.pin ∧
    offered t = .ok [0xC1#8] ∧ offered u = .ok [0xC1#8]

/-- PIN_INIT (R141), all four cases, in the order of its checks (R140). The codes of the direction, the answer to an
illegal one and its place before the index check are the spec's decisions D6 and D13 (log 11). -/
def Obligations.PinInitCases : Prop :=
  ∀ (s : State) (i d : Byte),
    (d ≠ 0x02#8 → d ≠ 0x03#8 →
      exec (.pinInit i d) s = .next { s with tx := Memory.ofFrame [0xFF#8, 0x02#8], txLen := 2 }) ∧
    (d = 0x02#8 ∨ d = 0x03#8 → 70 ≤ i.toNat →
      exec (.pinInit i d) s = .next { s with tx := Memory.ofFrame [0xFF#8, 0x01#8], txLen := 2 }) ∧
    (∀ h : i.toNat < 70, d = 0x02#8 ∨ d = 0x03#8 → s.pin[i.toNat] = .locked →
      exec (.pinInit i d) s = .next { s with tx := Memory.ofFrame [0xFF#8, 0x01#8], txLen := 2 }) ∧
    (∀ h : i.toNat < 70, s.pin[i.toNat] ≠ .locked →
      (d = 0x02#8 → exec (.pinInit i d) s = .next { s with
        pin := s.pin.set i.toNat .digitalIn, tx := Memory.ofFrame [0x0F#8, i, 0x02#8], txLen := 3 }) ∧
      (d = 0x03#8 → exec (.pinInit i d) s = .next { s with
        pin := s.pin.set i.toNat .digitalOut, tx := Memory.ofFrame [0x0F#8, i, 0x03#8], txLen := 3 }))

/-- A LOCKED pin is never changed by PIN_INIT (R142): whatever the direction byte the table stays as it is, and with a
legal one the response is ERROR(INVALID_PIN). -/
def Obligations.PinInitNeverChangesLockedPin : Prop :=
  ∀ (s : State) (i d : Byte) (h : i.toNat < 70), s.pin[i.toNat] = .locked →
    ∃ t, exec (.pinInit i d) s = .next t ∧ t.pin = s.pin ∧
      (d = 0x02#8 ∨ d = 0x03#8 → offered t = .ok [0xFF#8, 0x01#8])

/-- DIGITAL_READ (R145), all three cases: the level of the pin, sampled once, when the slot is DIGITAL_IN; else
ERROR(INVALID_PIN) with no sample. That the level is the value at the port in the present step, whatever it is, is the
model's choice (log 4); the value byte and the one sample are the spec's decisions D7 and D17. -/
def Obligations.DigitalReadCases : Prop :=
  (∀ (s : State) (i : Byte),
    (70 ≤ i.toNat →
      exec (.digitalRead i) s = .next { s with tx := Memory.ofFrame [0xFF#8, 0x01#8], txLen := 2 }) ∧
    (∀ h : i.toNat < 70, s.pin[i.toNat] ≠ .digitalIn →
      exec (.digitalRead i) s = .next { s with tx := Memory.ofFrame [0xFF#8, 0x01#8], txLen := 2 }) ∧
    (∀ h : i.toNat < 70, s.pin[i.toNat] = .digitalIn →
      exec (.digitalRead i) s = .next { s with
        sampled := s.sampled ++ [i.toNat]
        tx := Memory.ofFrame [0xEF#8, i, if s.ports.pinLevel.getLsbD i.toNat then 0x01#8 else 0x00#8]
        txLen := 3 })) ∧
  (∃ r, decode [0x10#8] = .error r) ∧ ∃ r, decode [0x10#8, 0x05#8, 0x00#8] = .error r

/-- A peripheral-to-host opcode received as a request (R117): STARTUP, ERROR, PIN_ACK and DIGITAL_DATA complete with the
response `[FF 02]`, whatever their payload, and write nothing else, in every state. That response is the whole effect
the spec gives them as requests, its decision D11; the frames the block itself sends with these opcodes are
`AnnouncementHandedOverOnce`, `PinInitCases` and `DigitalReadCases`. -/
def Obligations.PeripheralOpcodesAnswerInvalidPacket : Prop :=
  ∀ (s : State) (x y : Byte),
    ∀ i ∈ [Instr.startup, .error x, .pinAck x y, .digitalData x y],
      exec i s = .next { s with tx := Memory.ofFrame [0xFF#8, 0x02#8], txLen := 2 }

/-- REQUEST under the default policy (R172, the spec's decision D10): it completes with ERROR(INVALID_PACKET) for every
payload, nothing else written. -/
def Obligations.RequestUnderDefaultPolicy : Prop :=
  ∀ (s : State) (payload : List Byte), s.params.requestPolicy = .errorInvalidPacket →
    exec (.request payload) s = .next { s with tx := Memory.ofFrame [0xFF#8, 0x02#8], txLen := 2 }

/-- REQUEST under every policy (R172's general rules): it completes with one response frame, a valid packet of 1 to 100
bytes that is no STARTUP, PIN_ACK or DIGITAL_DATA and names no pin (R86, R131, R143, R146), and writes nothing else.
That no policy writes a slot or the LED, and that those rules bind every policy, is the model's reading (log 3). -/
def Obligations.RequestUnderEveryPolicy : Prop :=
  ∀ (s : State) (payload : List Byte), ∃ (f : Frame) (i : Instr),
    exec (.request payload) s = .next { s with tx := Memory.ofFrame f, txLen := f.length } ∧
    1 ≤ f.length ∧ f.length ≤ 100 ∧ decode f = .ok i ∧
    i ∈ [.ping, .reset, .ledHigh, .ledLow, .error 0x01#8, .error 0x02#8, .request i.payload]

/-- The frames with one use (R90, R170, R131, R143, R146), under every REQUEST_POLICY: an ERROR carries code 01 or 02, a
PIN_ACK answers only a successful PIN_INIT (a legal direction, a slot not LOCKED, which now has the state asked for) and
a DIGITAL_DATA only a successful DIGITAL_READ (a slot that is DIGITAL_IN), each with the request's index, and among the
responses STARTUP answers only RESET. That these rules bind every REQUEST_POLICY is the model's
reading (log 3). -/
def Obligations.PeripheralFramesHaveOneUse : Prop :=
  ∀ (i : Instr) (s t : State) (xs : List Byte), exec i s = .next t →
    (offered t = .ok (0xFF#8 :: xs) → xs = [0x01#8] ∨ xs = [0x02#8]) ∧
    (offered t = .ok (0x0F#8 :: xs) → ∃ (p d : Byte) (hp : p.toNat < 70), i = .pinInit p d ∧ xs = [p, d] ∧
      s.pin[p.toNat] ≠ .locked ∧
      ((d = 0x02#8 ∧ t.pin[p.toNat] = .digitalIn) ∨ (d = 0x03#8 ∧ t.pin[p.toNat] = .digitalOut))) ∧
    (offered t = .ok (0xEF#8 :: xs) → ∃ (p : Byte) (hp : p.toNat < 70), i = .digitalRead p ∧
      s.pin[p.toNat] = .digitalIn ∧ (xs = [p, 0x00#8] ∨ xs = [p, 0x01#8])) ∧
    (offered t = .ok (0xC1#8 :: xs) → i = .reset ∧ xs = [])

/-! ## What every instruction leaves alone -/

/-- The frame of every instruction: the sequencer, the receive buffer, the parameters and the surroundings are
unchanged; the table changes only in RESET and, at the slot named, in PIN_INIT; the LED only in LED_HIGH and LED_LOW;
a pin is sampled only by DIGITAL_READ. For REQUEST under a policy of its own this is the model's reading (log 3); that
RESET leaves the LED is the spec's decision D9. -/
def Obligations.EveryInstructionFrame : Prop :=
  ∀ (i : Instr) (s t : State), exec i s = .next t →
    t.phase = s.phase ∧ t.startupPending = s.startupPending ∧ t.params = s.params ∧ t.ports = s.ports ∧
    t.inputs = s.inputs ∧ t.sent = s.sent ∧ t.rxLen = s.rxLen ∧
    (∀ a : Nat, t.rx.read a = s.rx.read a) ∧
    (∀ j (hj : j < 70), i ≠ .reset → (∀ p d : Byte, p.toNat = j → i ≠ .pinInit p d) → t.pin[j] = s.pin[j]) ∧
    (i ≠ .ledHigh → i ≠ .ledLow → t.led = s.led) ∧
    ((∀ p : Byte, i ≠ .digitalRead p) → t.sampled = s.sampled)

/-- The transmit space after an instruction: it holds exactly one frame of 1 to 100 bytes, at the offsets 0 to TX_LEN-1,
and nothing at any other offset (R35, R38). The spec only calls the other offsets invalid: that they hold nothing is the
model's reading (log 8, log 9). -/
def Obligations.TransmitBufferHoldsOneFrame : Prop :=
  ∀ (i : Instr) (s t : State), exec i s = .next t →
    1 ≤ t.txLen ∧ t.txLen ≤ 100 ∧ ∃ f : Frame, f.length = t.txLen ∧ (∀ a : Nat, t.tx.read a = f[a]?) ∧
      offered t = .ok f

/-- An error writes nothing (R57, R184, R226): in an exchange whose response begins with FF, the pin table, the LED and
the record of samples are as before. For a REQUEST under a policy of its own this is the model's reading (log 3). -/
def Obligations.ErrorResponseWritesNothing : Prop :=
  ∀ (s t : State) (p : Inputs) (rest : List Inputs) (b : Frame) (xs : List Byte),
    s.phase = .idle → s.inputs = p :: rest → p.rst = false → p.rxFrame = some b → step s = .next t →
    offered t = .ok (0xFF#8 :: xs) → t.pin = s.pin ∧ t.led = s.led ∧ t.sampled = s.sampled

/-- A pin is sampled only by a DIGITAL_READ that has passed both checks, once, and the sample is what the response
carries (R58 (a), (b), (d), the spec's decision D17). That the sample is the value at the port in the present step is
the model's choice (log 4). -/
def Obligations.SampleOnlyOnSuccessfulRead : Prop :=
  ∀ (i : Instr) (s t : State), exec i s = .next t → t.sampled ≠ s.sampled →
    ∃ (p : Byte) (hp : p.toNat < 70), i = .digitalRead p ∧ s.pin[p.toNat] = .digitalIn ∧
      t.sampled = s.sampled ++ [p.toNat] ∧ t.pin = s.pin ∧ t.led = s.led ∧
      offered t = .ok [0xEF#8, p, if s.ports.pinLevel.getLsbD p.toNat then 0x01#8 else 0x00#8]

/-! ## One step -/

/-- A frame that decodes is run (R110, R226): the step from IDLE is `exec` of its packet, in the state in which the
frame is in RX and PHASE is BUSY. -/
def Obligations.StepRunsDecodedInstruction : Prop :=
  ∀ (s : State) (p : Inputs) (rest : List Inputs) (b : Frame) (i : Instr),
    s.phase = .idle → s.inputs = p :: rest → p.rst = false → p.rxFrame = some b → decode b = .ok i →
    step s = exec i { s with
      ports := p, inputs := rest, phase := .busy, rx := Memory.ofFrame (b.take 100), rxLen := min b.length 101 }

/-- The host's way in (log 13, log 14): after `withFetchWord`, whatever the state was, the very next step runs the
instruction the decoder reads from the word. This is the model's own convention, not a rule of the spec. -/
def Obligations.FetchWordRunsInNextStep : Prop :=
  ∀ (s : State) (nbits w : Nat) (i : Instr), decodeTableWord nbits w = some i →
    ∃ u, step (s.withFetchWord nbits w) = exec i u ∧ u.phase = .busy ∧ u.pin = s.pin ∧ u.led = s.led ∧
      u.params = s.params ∧ u.sent = s.sent ∧ u.inputs = s.inputs ∧ fetch u = .ok (encode i)

/-- A frame that does not decode is answered `[FF 02]`, the empty and the oversized one included, and changes nothing
else but RX and PHASE (R110, R119). That such a frame is answered on the link is the spec's decision D21. -/
def Obligations.StepAnswersUndecodableFrame : Prop :=
  ∀ (s : State) (p : Inputs) (rest : List Inputs) (b : Frame) (r : DecodeReject),
    s.phase = .idle → s.inputs = p :: rest → p.rst = false → p.rxFrame = some b → decode b = .error r →
    step s = .next { s with
      ports := p, inputs := rest, phase := .busy, rx := Memory.ofFrame (b.take 100), rxLen := min b.length 101
      tx := Memory.ofFrame [0xFF#8, 0x02#8], txLen := 2 }

/-- The receive buffer after a frame is accepted (R34): RX[k] = b[k] below 100, nothing beyond the frame or beyond 100,
and RX_LEN is the length, 101 for every longer frame. The buffer is the spec's decision D2; R34 says that bytes beyond
the frame are not defined, and that they read as nothing is the model's reading (log 8). -/
def Obligations.ReceiveBufferHoldsFrame : Prop :=
  ∀ (s t : State) (p : Inputs) (rest : List Inputs) (b : Frame),
    s.phase = .idle → s.inputs = p :: rest → p.rst = false → p.rxFrame = some b → step s = .next t →
    (∀ k : Nat, t.rx.read k = if k < 100 then b[k]? else none) ∧
    (b.length ≤ 100 → t.rxLen = b.length) ∧ (100 < b.length → t.rxLen = 101)

/-- Hardware reset in any phase, in the middle of an exchange too (R210, R191): every piece of state takes its reset
value, the STARTUP frame is offered, and no response is sent. That an exchange is abandoned is the spec's decision D16,
the LED's reset value D9. That no frame leaves in a step with rst, the transport ready or not, is the model's choice
(log 6). RX, which R41 leaves unspecified, is not spoken of. -/
def Obligations.HardwareResetFromAnyState : Prop :=
  ∀ (s : State) (p : Inputs) (rest : List Inputs), s.inputs = p :: rest → p.rst = true →
    ∃ t, step s = .next t ∧
      (∀ i (h : i < 70), t.pin[i] = if s.params.lockedPins.getLsbD i = true then .locked else .unused) ∧
      t.led = false ∧ t.startupPending = true ∧ t.phase = .announce ∧
      t.txLen = 1 ∧ (∀ a : Nat, t.tx.read a = ([0xC1#8] : Frame)[a]?) ∧
      t.params = s.params ∧ t.sent = s.sent ∧ t.sampled = s.sampled ∧ t.inputs = rest

/-- The state after hardware reset (R41), for every LOCKED_PINS, REQUEST_POLICY and behaviour of the surroundings; and
`State.reset` is the one with the parameters of log 1 and log 2, the receive buffer of log 7 and the surroundings of
log 15, which is the model's choice. LED = 0, STARTUP_PENDING = 1 and PHASE = ANNOUNCE are the spec's decisions D9, D14
and D19. -/
def Obligations.BootStateHasResetValues : Prop :=
  (∀ (p : Params) (ins : List Inputs),
    (∀ i (h : i < 70), (State.boot p ins).pin[i] = if p.lockedPins.getLsbD i = true then .locked else .unused) ∧
    (State.boot p ins).led = false ∧ (State.boot p ins).startupPending = true ∧
    (State.boot p ins).phase = .announce ∧ offered (State.boot p ins) = .ok [0xC1#8] ∧
    (State.boot p ins).params = p) ∧
  State.reset = State.boot ⟨0, .errorInvalidPacket⟩ []

/-- The announcement (R130): in ANNOUNCE the STARTUP frame stays offered until the transport takes it, whatever frame
waits at the port; then it has been sent once, STARTUP_PENDING is 0 and PHASE is IDLE. The mechanism is the
spec's decision D14. -/
def Obligations.AnnouncementHandedOverOnce : Prop :=
  ∀ (s : State) (p : Inputs) (rest : List Inputs),
    s.phase = .announce → s.inputs = p :: rest → p.rst = false → offered s = .ok [0xC1#8] →
    (p.txReady = false → step s = .next { s with ports := p, inputs := rest }) ∧
    (p.txReady = true → step s = .next { s with
      ports := p, inputs := rest, sent := s.sent ++ [[0xC1#8]], startupPending := false, phase := .idle })

/-- A response stays offered until the transport takes it, and no frame is accepted meanwhile (R187, R219); then it has
been sent and PHASE is IDLE, after an error as after a success (R185). The spec's decision D15. -/
def Obligations.ResponseHeldUntilTaken : Prop :=
  ∀ (s : State) (p : Inputs) (rest : List Inputs) (f : Frame),
    s.phase = .busy → s.inputs = p :: rest → p.rst = false → offered s = .ok f →
    (p.txReady = false → step s = .next { s with ports := p, inputs := rest }) ∧
    (p.txReady = true → step s = .next { s with
      ports := p, inputs := rest, sent := s.sent ++ [f], phase := .idle })

/-- In IDLE with no frame at the port the block waits (R33). -/
def Obligations.IdleWaitsForFrame : Prop :=
  ∀ (s : State) (p : Inputs) (rest : List Inputs),
    s.phase = .idle → s.inputs = p :: rest → p.rst = false → p.rxFrame = none →
    step s = .next { s with ports := p, inputs := rest }

/-- A frame leaves the block only from ANNOUNCE or BUSY, one in a step, when the transport is ready and there is no
reset, and PHASE is IDLE after it; otherwise nothing is sent (R33, R119, R216). That none leaves in a step with rst is
the model's choice (log 6). -/
def Obligations.OneFrameLeavesAtATime : Prop :=
  ∀ s t : State, step s = .next t →
    (t.sent = s.sent ∨
      s.phase ≠ .idle ∧ t.phase = .idle ∧ s.latch.ports.rst = false ∧ s.latch.ports.txReady = true ∧
      ∃ f, offered s = .ok f ∧ t.sent = s.sent ++ [f]) ∧
    (s.phase ≠ .idle → t.phase = .idle → t.sent ≠ s.sent)

/-! ## Rules about the whole machine -/

/-- What changes a slot (R23): only a hardware reset, a RESET, or a PIN_INIT naming that slot which succeeds. For a
REQUEST under a policy of its own this is the model's reading (log 3). -/
def Obligations.OnlyInitAndResetsChangeSlots : Prop :=
  ∀ (s t : State) (j : Nat) (hj : j < 70), step s = .next t → t.pin[j] ≠ s.pin[j] →
    s.latch.ports.rst = true ∨
    (s.phase = .idle ∧ s.latch.ports.rxFrame = some [0xC0#8]) ∨
    (s.phase = .idle ∧ s.pin[j] ≠ .locked ∧ ∃ i d : Byte, i.toNat = j ∧ (d = 0x02#8 ∨ d = 0x03#8) ∧
      s.latch.ports.rxFrame = some [0xF0#8, i, d] ∧ offered t = .ok [0x0F#8, i, d] ∧
      t.pin[j] = if d = 0x02#8 then .digitalIn else .digitalOut)

/-- What changes the LED (R30, R162): only a hardware reset, which leaves it 0, LED_HIGH or LED_LOW. That RESET is no
writer of it and the value after hardware reset are the spec's decision D9; that a REQUEST under a policy of its own is
none is the model's reading (log 3). -/
def Obligations.OnlyLedCommandsAndResetChangeLed : Prop :=
  ∀ s t : State, step s = .next t → t.led ≠ s.led →
    (s.latch.ports.rst = true ∧ t.led = false) ∨
    (s.phase = .idle ∧ s.latch.ports.rxFrame = some [0x55#8] ∧ t.led = true) ∨
    (s.phase = .idle ∧ s.latch.ports.rxFrame = some [0xAA#8] ∧ t.led = false)

/-- A slot becomes DIGITAL_IN only by a PIN_INIT(i, IN), and no step between that and a reset or a PIN_INIT(i, OUT)
takes it away (R214 (5), R25). For a REQUEST under a policy of its own this is the model's reading (log 3). -/
def Obligations.ReadablePinWasInitialisedForInput : Prop :=
  ∀ (s t : State) (i : Byte) (hi : i.toNat < 70), step s = .next t →
    (t.pin[i.toNat] = .digitalIn → s.pin[i.toNat] ≠ .digitalIn →
      s.phase = .idle ∧ s.latch.ports.rxFrame = some [0xF0#8, i, 0x02#8]) ∧
    (s.pin[i.toNat] = .digitalIn → t.pin[i.toNat] ≠ .digitalIn →
      s.latch.ports.rst = true ∨ s.phase = .idle ∧
        (s.latch.ports.rxFrame = some [0xC0#8] ∨ s.latch.ports.rxFrame = some [0xF0#8, i, 0x03#8]))

/-- A pin initialised for input can be read in the next exchange (R62, R222, R223): its PIN_INIT is accepted and
acknowledged, the transport takes the PIN_ACK after any number of steps in which it is not ready, the DIGITAL_READ is
accepted and answered. The level answered is that at the port in the step that accepts the DIGITAL_READ, which is the
model's choice (log 4, log 6); the frames rest on the spec's decisions D3 to D7. -/
def Obligations.InitThenReadAnswersLevel : Prop :=
  ∀ (s : State) (i : Byte) (p q r : Inputs) (stalls rest : List Inputs) (h : i.toNat < 70), s.pin[i.toNat] ≠ .locked →
    s.phase = .idle → s.inputs = p :: (stalls ++ q :: r :: rest) →
    p.rst = false → p.rxFrame = some [0xF0#8, i, 0x02#8] → (∀ x ∈ stalls, x.rst = false ∧ x.txReady = false) →
    q.rst = false → q.txReady = true → r.rst = false → r.rxFrame = some [0x10#8, i] →
    ∃ t u v, step s = .next t ∧ offered t = .ok [0x0F#8, i, 0x02#8] ∧
      Host.Core.run Sys2Proof.core (stalls.length + 2) s = .next u ∧ u.phase = .idle ∧
      u.sent = s.sent ++ [[0x0F#8, i, 0x02#8]] ∧
      step u = .next v ∧ v.phase = .busy ∧ v.sent = u.sent ∧ v.inputs = rest ∧
      offered v = .ok [0xEF#8, i, if r.pinLevel.getLsbD i.toNat = true then 0x01#8 else 0x00#8]

/-- After a RESET no pin can be read (R132, R145). -/
def Obligations.ResetForgetsConfiguration : Prop :=
  ∀ (s t : State) (i : Byte), exec .reset s = .next t →
    ∃ u, exec (.digitalRead i) t = .next u ∧ offered u = .ok [0xFF#8, 0x01#8] ∧ u.sampled = s.sampled

/-- Hardware reset and the RESET opcode compared (R212): the same table and the same frame; only hardware reset writes
the LED, STARTUP_PENDING and PHASE. The LED is the spec's decision D9. -/
def Obligations.HardwareResetAgainstResetCommand : Prop :=
  ∀ (s t u : State) (p : Inputs) (rest : List Inputs), s.inputs = p :: rest → p.rst = true →
    step s = .next t → exec .reset s = .next u →
    t.pin = u.pin ∧ offered t = offered u ∧ t.led = false ∧ u.led = s.led ∧
    t.startupPending = true ∧ u.startupPending = s.startupPending ∧ t.phase = .announce ∧ u.phase = s.phase

/-- Which error wins (R186, R215), under the default policy: an exchange answers ERROR(INVALID_PIN) exactly for a
PIN_INIT with a legal direction and a pin that is out of range or LOCKED, or a DIGITAL_READ of a pin that is out of range
or not DIGITAL_IN; every INVALID_PACKET cause comes before. The place of the direction check is the spec's decision D13 (log 11). -/
def Obligations.InvalidPinExactlyForPinCauses : Prop :=
  ∀ (s t : State) (p : Inputs) (rest : List Inputs) (b : Frame),
    s.phase = .idle → s.inputs = p :: rest → p.rst = false → p.rxFrame = some b →
    s.params.requestPolicy = .errorInvalidPacket → step s = .next t →
    (offered t = .ok [0xFF#8, 0x01#8] ↔
      (∃ i d : Byte, b = [0xF0#8, i, d] ∧ (d = 0x02#8 ∨ d = 0x03#8) ∧
        (70 ≤ i.toNat ∨ s.pin[i.toNat]? = some .locked)) ∨
      (∃ i : Byte, b = [0x10#8, i] ∧ (70 ≤ i.toNat ∨ s.pin[i.toNat]? ≠ some .digitalIn)))

/-- The LED never influences a response, nor the table (R226), a REQUEST under a policy of its own included (log 3). -/
def Obligations.LedNeverInfluencesResponse : Prop :=
  ∀ (i : Instr) (s t : State) (v : Bool), exec i s = .next t →
    ∃ u, exec i { s with led := v } = .next u ∧ offered u = offered t ∧ u.pin = t.pin ∧ u.sampled = t.sampled

/-- The table influences a response only through the one slot the frame names (R226), under the default policy. Another
policy's reply may read the whole table, which is the model's choice (log 3). -/
def Obligations.TableInfluencesResponseOnlyThroughNamedSlot : Prop :=
  ∀ (i : Instr) (s t : State) (table : PinTable), s.params.requestPolicy = .errorInvalidPacket →
    (∀ (p : Byte) (hp : p.toNat < 70), (i = .digitalRead p ∨ ∃ d, i = .pinInit p d) →
      table[p.toNat] = s.pin[p.toNat]) →
    exec i s = .next t →
    ∃ u, exec i { s with pin := table } = .next u ∧ offered u = offered t ∧ u.led = t.led

/-- The parameters LOCKED_PINS and REQUEST_POLICY never change (R32, R226). That LOCKED_PINS is fixed for the life of the
hardware is the spec's decision D12. -/
def Obligations.ParametersNeverChange : Prop :=
  ∀ s t : State, step s = .next t → t.params = s.params

/-- The output ports (R216, R22, R65, R162): `rx_ready` exactly in IDLE, `tx_valid` in ANNOUNCE and BUSY, where
`tx_len` is the length of the frame offered and `tx_data` its bytes, `pin_state` the codes of the table, `led` the
latch. The ports are the spec's decision D1, the codes its decision D5. The premise `TxFits` is part of the invariant
`StepKeepsInvariant` states; that `tx_data` shows nothing beyond the frame is the model's reading (log 8, log 9). -/
def Obligations.OutputPortsShowState : Prop :=
  ∀ s : State,
    (s.rxReady = true ↔ s.phase = .idle) ∧ (s.txValid = true ↔ s.phase = .announce ∨ s.phase = .busy) ∧
    (s.txValid = true → TxFits s →
      offered s = .ok (txFrame s) ∧ s.txLenOut.toNat = (txFrame s).length ∧ s.txLenOut.toNat = s.txLen ∧
      ∀ k : Nat, s.txData k = (txFrame s)[k]?) ∧
    s.ledOut = s.led ∧
    ∀ i : Fin 70, s.pinState i = match s.pin[i] with
      | .unused => 0#2
      | .locked => 1#2
      | .digitalIn => 2#2
      | .digitalOut => 3#2

/-- Two identical DIGITAL_READ requests may get different responses (R58): on every instance, for every pin that
LOCKED_PINS does not name, there is a run from hardware reset in which they do. The draw is the spec's decision D17; that
levels come as a list of port values is the model's choice (log 4, log 5). -/
def Obligations.TwoReadsMayDiffer : Prop :=
  ∀ (p : Params) (i : Byte), i.toNat < 70 → p.lockedPins.getLsbD i.toNat = false →
    ∃ (ins : List Inputs) (t : State),
      ins.filterMap Inputs.rxFrame = [[0xF0#8, i, 0x02#8], [0x10#8, i], [0x10#8, i]] ∧
      Host.Core.run Sys2Proof.core ins.length (State.boot p ins) = .next t ∧
      t.sent = [[0xC1#8], [0x0F#8, i, 0x02#8], [0xEF#8, i, 0x01#8], [0xEF#8, i, 0x00#8]]

/-- Exchange is the map of R118, read off its rows over raw bytes (the frames rest on the spec's decisions D3 to D11):
for every request frame of every length, under the default policy, the step from IDLE leaves the table and the LED and
offers the response that `requestMap` gives. The level sampled is that at the port in that step (log 4). -/
def Obligations.ExchangeIsRequestMap : Prop :=
  ∀ (s : State) (p : Inputs) (rest : List Inputs) (b : Frame),
    s.phase = .idle → s.inputs = p :: rest → p.rst = false → p.rxFrame = some b →
    s.params.requestPolicy = .errorInvalidPacket →
    ∃ t, step s = .next t ∧
      Answer.mk t.pin t.led (txFrame t) = requestMap s.params.lockedPins p.pinLevel s.pin s.led b ∧
      t.txLen = (txFrame t).length ∧ t.phase = .busy ∧ t.startupPending = s.startupPending ∧
      t.params = s.params ∧ t.sent = s.sent ∧ t.inputs = rest

/-- Exactly one response (R119, R217, R219, R225): from IDLE, a request frame of any kind at the port, then any number of
steps in which the transport is not ready and may present other frames, then one in which it is: exactly one frame has
been sent, the block is IDLE again, and what it did in between is one exchange. -/
def Obligations.EveryRequestGetsExactlyOneResponse : Prop :=
  ∀ (s : State) (p q : Inputs) (stalls rest : List Inputs) (b : Frame),
    s.phase = .idle → s.inputs = p :: (stalls ++ q :: rest) → p.rst = false → p.rxFrame = some b →
    (∀ r ∈ stalls, r.rst = false ∧ r.txReady = false) → q.rst = false → q.txReady = true →
    ∃ t u f, step s = .next t ∧ offered t = .ok f ∧ 1 ≤ f.length ∧ f.length ≤ 100 ∧
      Host.Core.run Sys2Proof.core (stalls.length + 2) s = .next u ∧
      u = { t with ports := q, inputs := rest, phase := .idle, sent := s.sent ++ [f] }

/-- The invariant of the machine is kept by every step, from every state that meets it, reachable or not. That LOCKED is
constant rests on the spec's decision D12; what a REQUEST_POLICY of its own may send is the model's reading (log 3), and
so is that the buffers hold nothing beyond their frames (log 8, log 9). -/
def Obligations.StepKeepsInvariant : Prop :=
  ∀ s t : State, Inv s → step s = .next t → Inv t

/-- The invariant holds after hardware reset, for every instance, with the receive buffer of log 7. -/
def Obligations.InvariantHoldsAfterReset : Prop :=
  ∀ (p : Params) (ins : List Inputs), Inv (State.boot p ins)

/-- No state that meets the invariant stops: whatever frame the surroundings present, the step answers a next state, no
fault and no refusal (R188, R113). -/
def Obligations.StepIsTotalUnderInvariant : Prop :=
  ∀ s : State, Inv s → ∃ t, step s = .next t

/-- Runs from hardware reset (R26, R118, R188), for every instance and every behaviour of the surroundings: they never
stop, LOCKED slots are exactly LOCKED_PINS, every ERROR sent carries code 01 or 02 (R170), and under the default policy
every frame sent is one of the set of R118. That LOCKED_PINS is constant is the spec's decision D12; what another policy
may send is the model's reading (log 3). -/
def Obligations.RunsAreSafe : Prop :=
  ∀ s : State, Reachable s →
    (∃ t, step s = .next t) ∧
    (∀ i : Fin 70, s.pin[i] = .locked ↔ s.params.lockedPins.getLsbD i.val = true) ∧
    (∀ xs : List Byte, 0xFF#8 :: xs ∈ s.sent → xs = [0x01#8] ∨ xs = [0x02#8]) ∧
    (s.params.requestPolicy = .errorInvalidPacket → ∀ f ∈ s.sent, sendable f = true)

/-- The textual syntax (R94): the document's examples, and the frame example. -/
def Obligations.TextOfPackets : Prop :=
  packetText (.pinInit 5#8 3#8) = some "PIN_INIT(pin=5, direction=OUT)" ∧
  packetText (.pinAck 5#8 3#8) = some "PIN_ACK(pin=5, state=DIGITAL_OUT)" ∧
  packetText (.digitalRead 5#8) = some "DIGITAL_READ(pin=5)" ∧
  packetText (.error 1#8) = some "ERROR(INVALID_PIN)" ∧
  packetText .ping = some "PING" ∧ packetText .reset = some "RESET" ∧ packetText .startup = some "STARTUP" ∧
  frameText [0xF0#8, 0x05#8, 0x03#8] = "[F0 05 03]"
end

