-- ==== Sys2Proof/Laws/Codec.lean ====
section
/-! SUPPORT. The codec's small lemmas: the bytes of each packet, and that the opcode map and the packet shapes invert. -/

namespace Sys2Proof

@[simp] theorem encode_ping : encode .ping = [0x18#8] := rfl
@[simp] theorem encode_reset : encode .reset = [0xC0#8] := rfl
@[simp] theorem encode_startup : encode .startup = [0xC1#8] := rfl
@[simp] theorem encode_ledHigh : encode .ledHigh = [0x55#8] := rfl
@[simp] theorem encode_ledLow : encode .ledLow = [0xAA#8] := rfl
@[simp] theorem encode_digitalRead (p : Byte) : encode (.digitalRead p) = [0x10#8, p] := rfl
@[simp] theorem encode_error (c : Byte) : encode (.error c) = [0xFF#8, c] := rfl
@[simp] theorem encode_pinInit (p d : Byte) : encode (.pinInit p d) = [0xF0#8, p, d] := rfl
@[simp] theorem encode_pinAck (p st : Byte) : encode (.pinAck p st) = [0x0F#8, p, st] := rfl
@[simp] theorem encode_digitalData (p v : Byte) : encode (.digitalData p v) = [0xEF#8, p, v] := rfl
@[simp] theorem encode_request (pl : List Byte) : encode (.request pl) = 0x17#8 :: pl := rfl

@[simp] theorem DecodeReject.code_eq (r : DecodeReject) : r.code = .invalidPacket := by cases r <;> rfl

/-- OpcodeOf inverts ValueOf. -/
theorem opcodeOf_value (op : Opcode) : opcodeOf op.value = some op := by cases op <;> rfl

/-- ValueOf inverts OpcodeOf. -/
theorem value_of_opcodeOf {x : Byte} {op : Opcode} (h : opcodeOf x = some op) : op.value = x := by
  unfold opcodeOf at h
  repeat' split at h
  all_goals first
    | (next hx => cases h; exact hx.symm)
    | cases h

/-- A packet is rebuilt from its opcode and its payload. -/
theorem ofPacket_opcode_payload (i : Instr) : Instr.ofPacket i.opcode i.payload = some i := by
  cases i <;> rfl

/-- What `ofPacket` builds has the opcode and the payload it was given. -/
theorem ofPacket_eq_some {op : Opcode} {pl : List Byte} {i : Instr} (h : Instr.ofPacket op pl = some i) :
    i.opcode = op ∧ i.payload = pl := by
  unfold Instr.ofPacket at h
  split at h <;> first | (cases h; exact ⟨rfl, rfl⟩) | cases h

/-- The length of an encoded packet. -/
@[simp] theorem length_encode (i : Instr) : (encode i).length = i.payload.length + 1 := rfl

/-- A length an opcode allows is 1 to 100. -/
theorem lenOK_bounds {op : Opcode} {n : Nat} (h : lenOK op n = true) : 1 ≤ n ∧ n ≤ packetMaxSize := by
  show 1 ≤ n ∧ n ≤ 100
  cases op <;> simp only [lenOK, Opcode.fixedLength, beq_iff_eq, Bool.and_eq_true, decide_eq_true_eq] at h <;> omega

end Sys2Proof
end

