-- ==== Sys2Proof/Laws/Memory.lean ====
section
/-! SUPPORT. The frame address spaces: read after write, what a stored frame reads as, and that every operation keeps
the canonical form. -/

namespace Sys2Proof.Machine

@[simp] theorem Memory.read_nil (a : Nat) : Memory.read [] a = none := rfl

theorem Memory.read_cons (k : Nat) (b : Byte) (m : Memory) (a : Nat) :
    Memory.read ((k, b) :: m) a = if k = a then some b else Memory.read m a := rfl

/-- A larger lower bound is the stronger condition. -/
theorem Memory.risingFrom_mono {lo hi : Nat} (h : lo ≤ hi) {m : Memory} (hm : Memory.risingFrom hi m = true) :
    Memory.risingFrom lo m = true := by
  cases m with
  | nil => rfl
  | cons c m =>
    obtain ⟨k, b⟩ := c
    simp only [Memory.risingFrom, Bool.and_eq_true, decide_eq_true_eq] at hm ⊢
    exact ⟨⟨by omega, hm.1.2⟩, hm.2⟩

/-- Below its lower bound a canonical memory holds nothing. -/
theorem Memory.read_below {lo a : Nat} (h : a < lo) {m : Memory} (hm : Memory.risingFrom lo m = true) :
    Memory.read m a = none := by
  induction m generalizing lo with
  | nil => rfl
  | cons c m ih =>
    obtain ⟨k, b⟩ := c
    simp only [Memory.risingFrom, Bool.and_eq_true, decide_eq_true_eq] at hm
    rw [Memory.read_cons, if_neg (by omega)]
    exact ih (by omega) hm.2

/-- Read after write at the same offset. -/
@[simp] theorem Memory.read_write_same (m : Memory) (a : Nat) (v : Byte) :
    Memory.read (Memory.write m a v) a = some v := by
  induction m with
  | nil => simp [Memory.write, Memory.read]
  | cons c m ih =>
    obtain ⟨k, b⟩ := c
    unfold Memory.write
    split
    · simp [Memory.read]
    · split
      · simp [Memory.read]
      · rw [Memory.read_cons, if_neg (by omega), ih]

/-- A write leaves every other offset alone. -/
theorem Memory.read_write_other (m : Memory) {a c : Nat} (v : Byte) (h : c ≠ a) :
    Memory.read (Memory.write m a v) c = Memory.read m c := by
  induction m with
  | nil => simp [Memory.write, Memory.read, Ne.symm h]
  | cons x m ih =>
    obtain ⟨k, b⟩ := x
    unfold Memory.write
    split
    · rw [Memory.read_cons, if_neg (Ne.symm h)]
    · split
      · next hk => subst hk; simp [Memory.read, Ne.symm h]
      · simp only [Memory.read_cons, ih]

/-- A write inside the address space keeps the bound and the order. -/
theorem Memory.risingFrom_write {lo a : Nat} (hlo : lo ≤ a) (ha : a < packetMaxSize) (v : Byte) {m : Memory}
    (hm : Memory.risingFrom lo m = true) : Memory.risingFrom lo (Memory.write m a v) = true := by
  induction m generalizing lo with
  | nil => simp [Memory.write, Memory.risingFrom, hlo, ha]
  | cons c m ih =>
    obtain ⟨k, b⟩ := c
    simp only [Memory.risingFrom, Bool.and_eq_true, decide_eq_true_eq] at hm
    unfold Memory.write
    split
    · simp only [Memory.risingFrom, Bool.and_eq_true, decide_eq_true_eq]
      exact ⟨⟨hlo, ha⟩, ⟨⟨by omega, hm.1.2⟩, hm.2⟩⟩
    · split
      · next hk =>
        subst hk
        simp only [Memory.risingFrom, Bool.and_eq_true, decide_eq_true_eq]
        exact hm
      · simp only [Memory.risingFrom, Bool.and_eq_true, decide_eq_true_eq]
        exact ⟨hm.1, ih (by omega) hm.2⟩

/-- `write` keeps the canonical form. -/
theorem Memory.wf_write {a : Nat} (ha : a < packetMaxSize) (v : Byte) {m : Memory} (hm : m.wf = true) :
    (Memory.write m a v).wf = true :=
  Memory.risingFrom_write (Nat.zero_le a) ha v hm

/-- `store` keeps the canonical form, as long as it stays inside the address space. -/
theorem Memory.wf_store {m : Memory} (hm : m.wf = true) {a : Nat} {bs : List Byte}
    (h : a + bs.length ≤ packetMaxSize) : (Memory.store m a bs).wf = true := by
  induction bs generalizing m a with
  | nil => exact hm
  | cons b bs ih =>
    simp only [List.length_cons] at h
    exact ih (Memory.wf_write (by omega) b hm) (by omega)

/-- The address space of a frame of at most 100 bytes is canonical. -/
theorem Memory.wf_ofFrame {b : Frame} (h : b.length ≤ packetMaxSize) : (Memory.ofFrame b).wf = true :=
  Memory.wf_store rfl (by omega)

/-- What `store` reads as: the bytes written, and every other offset as before. -/
theorem Memory.read_store (m : Memory) (a : Nat) (bs : List Byte) (c : Nat) :
    Memory.read (Memory.store m a bs) c =
      if a ≤ c ∧ c < a + bs.length then bs[c - a]? else Memory.read m c := by
  induction bs generalizing m a with
  | nil => simp only [Memory.store, List.length_nil]; rw [if_neg (by omega)]
  | cons b bs ih =>
    simp only [Memory.store, List.length_cons]
    rw [ih]
    by_cases hc : c = a
    · subst hc
      rw [if_neg (by omega), if_pos (by omega), Memory.read_write_same]; simp
    · rw [Memory.read_write_other m b hc]
      by_cases hin : a + 1 ≤ c ∧ c < a + 1 + bs.length
      · rw [if_pos hin, if_pos (by omega), show c - a = (c - (a + 1)) + 1 by omega, List.getElem?_cons_succ]
      · rw [if_neg hin, if_neg (by omega)]

/-- The address space of a frame reads as the frame. -/
theorem Memory.read_ofFrame (b : Frame) (c : Nat) : Memory.read (Memory.ofFrame b) c = b[c]? := by
  rw [Memory.ofFrame, Memory.read_store]
  by_cases h : c < b.length
  · rw [if_pos (by omega)]; simp
  · rw [if_neg (by omega), List.getElem?_eq_none (by omega)]; rfl

/-- A write past the last listed offset is an append. -/
theorem Memory.write_append {m : Memory} {a : Nat} (h : ∀ c ∈ m, c.1 < a) (v : Byte) :
    Memory.write m a v = m ++ [(a, v)] := by
  induction m with
  | nil => rfl
  | cons c m ih =>
    obtain ⟨k, b⟩ := c
    have hk : k < a := h _ (List.mem_cons_self ..)
    rw [Memory.write, if_neg (by omega), if_neg (by omega), ih fun c hc => h c (List.mem_cons_of_mem _ hc)]
    rfl

/-- Bytes stored past the last listed offset are appended, each with its offset. -/
theorem Memory.store_append {m : Memory} {a : Nat} (h : ∀ c ∈ m, c.1 < a) (bs : List Byte) :
    Memory.store m a bs = m ++ (List.range' a bs.length).zip bs := by
  induction bs generalizing m a with
  | nil => simp [Memory.store]
  | cons b bs ih =>
    rw [Memory.store, Memory.write_append h, ih]
    · simp [List.range'_succ]
    · intro c hc
      rcases List.mem_append.mp hc with hc | hc
      · exact Nat.lt_succ_of_lt (h c hc)
      · rw [List.mem_singleton.mp hc]; exact Nat.lt_succ_self a

/-- The listed cells of a frame: each byte at its offset. -/
theorem Memory.ofFrame_eq (b : Frame) : Memory.ofFrame b = (List.range b.length).zip b := by
  rw [Memory.ofFrame, Memory.store_append (by simp), List.range_eq_range']; rfl

@[simp] theorem Memory.map_fst_ofFrame (b : Frame) : (Memory.ofFrame b).map Prod.fst = List.range b.length := by
  rw [Memory.ofFrame_eq, List.map_fst_zip (by simp)]

@[simp] theorem Memory.map_snd_ofFrame (b : Frame) : (Memory.ofFrame b).map Prod.snd = b := by
  rw [Memory.ofFrame_eq, List.map_snd_zip (by simp)]

/-- A memory whose offsets are exactly `0 .. n-1` is the address space of its bytes. -/
theorem Memory.eq_ofFrame {m : Memory} {n : Nat} (h : m.map Prod.fst = List.range n) :
    m = Memory.ofFrame (m.map Prod.snd) := by
  have hn : (m.map Prod.snd).length = n := by
    have := congrArg List.length h; simpa using this
  rw [Memory.ofFrame_eq, hn, ← h]
  induction m generalizing n with
  | nil => rfl
  | cons c m _ => simp [List.zip_map', ]

/-- A memory whose offsets are exactly `0 .. n-1` is canonical. -/
theorem Memory.wf_of_map_fst {m : Memory} {n : Nat} (h : m.map Prod.fst = List.range n) (hn : n ≤ packetMaxSize) :
    m.wf = true := by
  rw [Memory.eq_ofFrame h]
  have hl : (m.map Prod.snd).length = n := by
    have := congrArg List.length h; simpa using this
  exact Memory.wf_ofFrame (by omega)

/-- `load` answers bytes exactly when every offset of the range holds one. -/
theorem Memory.load_eq_ok {m : Memory} {a : Nat} {bs : List Byte}
    (h : ∀ k, (hk : k < bs.length) → Memory.read m (a + k) = some bs[k]) :
    Memory.load m a bs.length = .ok bs := by
  induction bs generalizing a with
  | nil => rfl
  | cons b bs ih =>
    have h0 := h 0 (by simp)
    simp only [Nat.add_zero, List.getElem_cons_zero] at h0
    have hs := ih (a := a + 1) fun k hk => by
      have := h (k + 1) (by simpa using hk)
      simpa [Nat.add_assoc, Nat.add_comm 1 k] using this
    simp only [List.length_cons, Memory.load, h0, hs]

/-- The whole address space of a frame loads as the frame. -/
@[simp] theorem Memory.load_ofFrame (b : Frame) : Memory.load (Memory.ofFrame b) 0 b.length = .ok b :=
  Memory.load_eq_ok fun k hk => by rw [Memory.read_ofFrame, Nat.zero_add, List.getElem?_eq_getElem hk]

end Sys2Proof.Machine
end

