-- ==== Sys2Proof/Laws/State.lean ====
section
/-! SUPPORT. One lemma per field of State per update of it, so that no proof unfolds a record update. -/

namespace Sys2Proof.Machine

/-! ### putFrame -/

@[simp] theorem State.putFrame_pin (s : State) (f : Frame) : (s.putFrame f).pin = s.pin := rfl
@[simp] theorem State.putFrame_led (s : State) (f : Frame) : (s.putFrame f).led = s.led := rfl
@[simp] theorem State.putFrame_startupPending (s : State) (f : Frame) : (s.putFrame f).startupPending = s.startupPending := rfl
@[simp] theorem State.putFrame_phase (s : State) (f : Frame) : (s.putFrame f).phase = s.phase := rfl
@[simp] theorem State.putFrame_rx (s : State) (f : Frame) : (s.putFrame f).rx = s.rx := rfl
@[simp] theorem State.putFrame_rxLen (s : State) (f : Frame) : (s.putFrame f).rxLen = s.rxLen := rfl
@[simp] theorem State.putFrame_tx (s : State) (f : Frame) : (s.putFrame f).tx = Memory.ofFrame f := rfl
@[simp] theorem State.putFrame_txLen (s : State) (f : Frame) : (s.putFrame f).txLen = f.length := rfl
@[simp] theorem State.putFrame_params (s : State) (f : Frame) : (s.putFrame f).params = s.params := rfl
@[simp] theorem State.putFrame_ports (s : State) (f : Frame) : (s.putFrame f).ports = s.ports := rfl
@[simp] theorem State.putFrame_inputs (s : State) (f : Frame) : (s.putFrame f).inputs = s.inputs := rfl
@[simp] theorem State.putFrame_sent (s : State) (f : Frame) : (s.putFrame f).sent = s.sent := rfl
@[simp] theorem State.putFrame_sampled (s : State) (f : Frame) : (s.putFrame f).sampled = s.sampled := rfl

/-! ### hardwareReset -/

@[simp] theorem State.hardwareReset_pin (s : State) : (s.hardwareReset).pin = initTable s.params.lockedPins := rfl
@[simp] theorem State.hardwareReset_led (s : State) : (s.hardwareReset).led = false := rfl
@[simp] theorem State.hardwareReset_startupPending (s : State) : (s.hardwareReset).startupPending = true := rfl
@[simp] theorem State.hardwareReset_phase (s : State) : (s.hardwareReset).phase = .announce := rfl
@[simp] theorem State.hardwareReset_rx (s : State) : (s.hardwareReset).rx = [] := rfl
@[simp] theorem State.hardwareReset_rxLen (s : State) : (s.hardwareReset).rxLen = 0 := rfl
@[simp] theorem State.hardwareReset_tx (s : State) : (s.hardwareReset).tx = Memory.ofFrame [0xC1#8] := rfl
@[simp] theorem State.hardwareReset_txLen (s : State) : (s.hardwareReset).txLen = 1 := rfl
@[simp] theorem State.hardwareReset_params (s : State) : (s.hardwareReset).params = s.params := rfl
@[simp] theorem State.hardwareReset_ports (s : State) : (s.hardwareReset).ports = s.ports := rfl
@[simp] theorem State.hardwareReset_inputs (s : State) : (s.hardwareReset).inputs = s.inputs := rfl
@[simp] theorem State.hardwareReset_sent (s : State) : (s.hardwareReset).sent = s.sent := rfl
@[simp] theorem State.hardwareReset_sampled (s : State) : (s.hardwareReset).sampled = s.sampled := rfl

/-! ### accept -/

@[simp] theorem State.accept_pin (s : State) (b : Frame) : (s.accept b).pin = s.pin := rfl
@[simp] theorem State.accept_led (s : State) (b : Frame) : (s.accept b).led = s.led := rfl
@[simp] theorem State.accept_startupPending (s : State) (b : Frame) : (s.accept b).startupPending = s.startupPending := rfl
@[simp] theorem State.accept_phase (s : State) (b : Frame) : (s.accept b).phase = .busy := rfl
@[simp] theorem State.accept_rx (s : State) (b : Frame) : (s.accept b).rx = Memory.ofFrame (b.take 100) := rfl
@[simp] theorem State.accept_rxLen (s : State) (b : Frame) : (s.accept b).rxLen = min b.length 101 := rfl
@[simp] theorem State.accept_tx (s : State) (b : Frame) : (s.accept b).tx = s.tx := rfl
@[simp] theorem State.accept_txLen (s : State) (b : Frame) : (s.accept b).txLen = s.txLen := rfl
@[simp] theorem State.accept_params (s : State) (b : Frame) : (s.accept b).params = s.params := rfl
@[simp] theorem State.accept_ports (s : State) (b : Frame) : (s.accept b).ports = s.ports := rfl
@[simp] theorem State.accept_inputs (s : State) (b : Frame) : (s.accept b).inputs = s.inputs := rfl
@[simp] theorem State.accept_sent (s : State) (b : Frame) : (s.accept b).sent = s.sent := rfl
@[simp] theorem State.accept_sampled (s : State) (b : Frame) : (s.accept b).sampled = s.sampled := rfl

/-! ### announceTaken -/

@[simp] theorem State.announceTaken_pin (s : State) (f : Frame) : (s.announceTaken f).pin = s.pin := rfl
@[simp] theorem State.announceTaken_led (s : State) (f : Frame) : (s.announceTaken f).led = s.led := rfl
@[simp] theorem State.announceTaken_startupPending (s : State) (f : Frame) : (s.announceTaken f).startupPending = false := rfl
@[simp] theorem State.announceTaken_phase (s : State) (f : Frame) : (s.announceTaken f).phase = .idle := rfl
@[simp] theorem State.announceTaken_rx (s : State) (f : Frame) : (s.announceTaken f).rx = s.rx := rfl
@[simp] theorem State.announceTaken_rxLen (s : State) (f : Frame) : (s.announceTaken f).rxLen = s.rxLen := rfl
@[simp] theorem State.announceTaken_tx (s : State) (f : Frame) : (s.announceTaken f).tx = s.tx := rfl
@[simp] theorem State.announceTaken_txLen (s : State) (f : Frame) : (s.announceTaken f).txLen = s.txLen := rfl
@[simp] theorem State.announceTaken_params (s : State) (f : Frame) : (s.announceTaken f).params = s.params := rfl
@[simp] theorem State.announceTaken_ports (s : State) (f : Frame) : (s.announceTaken f).ports = s.ports := rfl
@[simp] theorem State.announceTaken_inputs (s : State) (f : Frame) : (s.announceTaken f).inputs = s.inputs := rfl
@[simp] theorem State.announceTaken_sent (s : State) (f : Frame) : (s.announceTaken f).sent = s.sent ++ [f] := rfl
@[simp] theorem State.announceTaken_sampled (s : State) (f : Frame) : (s.announceTaken f).sampled = s.sampled := rfl

/-! ### responseTaken -/

@[simp] theorem State.responseTaken_pin (s : State) (f : Frame) : (s.responseTaken f).pin = s.pin := rfl
@[simp] theorem State.responseTaken_led (s : State) (f : Frame) : (s.responseTaken f).led = s.led := rfl
@[simp] theorem State.responseTaken_startupPending (s : State) (f : Frame) : (s.responseTaken f).startupPending = s.startupPending := rfl
@[simp] theorem State.responseTaken_phase (s : State) (f : Frame) : (s.responseTaken f).phase = .idle := rfl
@[simp] theorem State.responseTaken_rx (s : State) (f : Frame) : (s.responseTaken f).rx = s.rx := rfl
@[simp] theorem State.responseTaken_rxLen (s : State) (f : Frame) : (s.responseTaken f).rxLen = s.rxLen := rfl
@[simp] theorem State.responseTaken_tx (s : State) (f : Frame) : (s.responseTaken f).tx = s.tx := rfl
@[simp] theorem State.responseTaken_txLen (s : State) (f : Frame) : (s.responseTaken f).txLen = s.txLen := rfl
@[simp] theorem State.responseTaken_params (s : State) (f : Frame) : (s.responseTaken f).params = s.params := rfl
@[simp] theorem State.responseTaken_ports (s : State) (f : Frame) : (s.responseTaken f).ports = s.ports := rfl
@[simp] theorem State.responseTaken_inputs (s : State) (f : Frame) : (s.responseTaken f).inputs = s.inputs := rfl
@[simp] theorem State.responseTaken_sent (s : State) (f : Frame) : (s.responseTaken f).sent = s.sent ++ [f] := rfl
@[simp] theorem State.responseTaken_sampled (s : State) (f : Frame) : (s.responseTaken f).sampled = s.sampled := rfl

/-! ### withFrame -/

@[simp] theorem State.withFrame_pin (s : State) (b : Frame) : (s.withFrame b).pin = s.pin := rfl
@[simp] theorem State.withFrame_led (s : State) (b : Frame) : (s.withFrame b).led = s.led := rfl
@[simp] theorem State.withFrame_startupPending (s : State) (b : Frame) : (s.withFrame b).startupPending = false := rfl
@[simp] theorem State.withFrame_phase (s : State) (b : Frame) : (s.withFrame b).phase = .idle := rfl
@[simp] theorem State.withFrame_rx (s : State) (b : Frame) : (s.withFrame b).rx = s.rx := rfl
@[simp] theorem State.withFrame_rxLen (s : State) (b : Frame) : (s.withFrame b).rxLen = s.rxLen := rfl
@[simp] theorem State.withFrame_tx (s : State) (b : Frame) : (s.withFrame b).tx = s.tx := rfl
@[simp] theorem State.withFrame_txLen (s : State) (b : Frame) : (s.withFrame b).txLen = s.txLen := rfl
@[simp] theorem State.withFrame_params (s : State) (b : Frame) : (s.withFrame b).params = s.params := rfl
@[simp] theorem State.withFrame_ports (s : State) (b : Frame) : (s.withFrame b).ports = s.ports := rfl
@[simp] theorem State.withFrame_inputs (s : State) (b : Frame) : (s.withFrame b).inputs = ⟨false, some b, true, s.ports.pinLevel⟩ :: s.inputs := rfl
@[simp] theorem State.withFrame_sent (s : State) (b : Frame) : (s.withFrame b).sent = s.sent := rfl
@[simp] theorem State.withFrame_sampled (s : State) (b : Frame) : (s.withFrame b).sampled = s.sampled := rfl

/-! ### sample -/

@[simp] theorem sample_level (i : Byte) (s : State) : (sample i s).1 = s.ports.pinLevel.getLsbD i.toNat := rfl
@[simp] theorem sample_pin (i : Byte) (s : State) : (sample i s).2.pin = s.pin := rfl
@[simp] theorem sample_led (i : Byte) (s : State) : (sample i s).2.led = s.led := rfl
@[simp] theorem sample_startupPending (i : Byte) (s : State) : (sample i s).2.startupPending = s.startupPending := rfl
@[simp] theorem sample_phase (i : Byte) (s : State) : (sample i s).2.phase = s.phase := rfl
@[simp] theorem sample_rx (i : Byte) (s : State) : (sample i s).2.rx = s.rx := rfl
@[simp] theorem sample_rxLen (i : Byte) (s : State) : (sample i s).2.rxLen = s.rxLen := rfl
@[simp] theorem sample_tx (i : Byte) (s : State) : (sample i s).2.tx = s.tx := rfl
@[simp] theorem sample_txLen (i : Byte) (s : State) : (sample i s).2.txLen = s.txLen := rfl
@[simp] theorem sample_params (i : Byte) (s : State) : (sample i s).2.params = s.params := rfl
@[simp] theorem sample_ports (i : Byte) (s : State) : (sample i s).2.ports = s.ports := rfl
@[simp] theorem sample_inputs (i : Byte) (s : State) : (sample i s).2.inputs = s.inputs := rfl
@[simp] theorem sample_sent (i : Byte) (s : State) : (sample i s).2.sent = s.sent := rfl
@[simp] theorem sample_sampled (i : Byte) (s : State) : (sample i s).2.sampled = s.sampled ++ [i.toNat] := rfl

/-! ### latch -/

/-- With a record to come, `latch` puts it at the ports. -/
theorem State.latch_cons {s : State} {p : Inputs} {rest : List Inputs} (h : s.inputs = p :: rest) :
    s.latch = { s with ports := p, inputs := rest } := by
  unfold State.latch; rw [h]

/-- With nothing to come, the ports are quiet. -/
theorem State.latch_nil {s : State} (h : s.inputs = []) : s.latch = { s with ports := Inputs.quiet } := by
  unfold State.latch; rw [h]

@[simp] theorem State.latch_pin (s : State) : s.latch.pin = s.pin := by unfold State.latch; split <;> rfl
@[simp] theorem State.latch_led (s : State) : s.latch.led = s.led := by unfold State.latch; split <;> rfl
@[simp] theorem State.latch_startupPending (s : State) : s.latch.startupPending = s.startupPending := by unfold State.latch; split <;> rfl
@[simp] theorem State.latch_phase (s : State) : s.latch.phase = s.phase := by unfold State.latch; split <;> rfl
@[simp] theorem State.latch_rx (s : State) : s.latch.rx = s.rx := by unfold State.latch; split <;> rfl
@[simp] theorem State.latch_rxLen (s : State) : s.latch.rxLen = s.rxLen := by unfold State.latch; split <;> rfl
@[simp] theorem State.latch_tx (s : State) : s.latch.tx = s.tx := by unfold State.latch; split <;> rfl
@[simp] theorem State.latch_txLen (s : State) : s.latch.txLen = s.txLen := by unfold State.latch; split <;> rfl
@[simp] theorem State.latch_params (s : State) : s.latch.params = s.params := by unfold State.latch; split <;> rfl
@[simp] theorem State.latch_sent (s : State) : s.latch.sent = s.sent := by unfold State.latch; split <;> rfl
@[simp] theorem State.latch_sampled (s : State) : s.latch.sampled = s.sampled := by unfold State.latch; split <;> rfl

/-! ### boot -/

@[simp] theorem State.boot_pin (p : Params) (ins : List Inputs) : (State.boot p ins).pin = initTable p.lockedPins := rfl
@[simp] theorem State.boot_led (p : Params) (ins : List Inputs) : (State.boot p ins).led = false := rfl
@[simp] theorem State.boot_startupPending (p : Params) (ins : List Inputs) : (State.boot p ins).startupPending = true := rfl
@[simp] theorem State.boot_phase (p : Params) (ins : List Inputs) : (State.boot p ins).phase = .announce := rfl
@[simp] theorem State.boot_rx (p : Params) (ins : List Inputs) : (State.boot p ins).rx = [] := rfl
@[simp] theorem State.boot_rxLen (p : Params) (ins : List Inputs) : (State.boot p ins).rxLen = 0 := rfl
@[simp] theorem State.boot_tx (p : Params) (ins : List Inputs) : (State.boot p ins).tx = Memory.ofFrame [0xC1#8] := rfl
@[simp] theorem State.boot_txLen (p : Params) (ins : List Inputs) : (State.boot p ins).txLen = 1 := rfl
@[simp] theorem State.boot_params (p : Params) (ins : List Inputs) : (State.boot p ins).params = p := rfl
@[simp] theorem State.boot_ports (p : Params) (ins : List Inputs) : (State.boot p ins).ports = Inputs.quiet := rfl
@[simp] theorem State.boot_inputs (p : Params) (ins : List Inputs) : (State.boot p ins).inputs = ins := rfl
@[simp] theorem State.boot_sent (p : Params) (ins : List Inputs) : (State.boot p ins).sent = [] := rfl
@[simp] theorem State.boot_sampled (p : Params) (ins : List Inputs) : (State.boot p ins).sampled = [] := rfl

end Sys2Proof.Machine
end

