-- ==== Sys2Proof/Laws/Ops.lean ====
section
/-! SUPPORT. One lemma per shared operation: everything it can do. -/

namespace Sys2Proof.Machine

/-! ## Pin table -/

theorem pinTableGet_of_lt {t : PinTable} {i : Byte} (h : i.toNat < numPins) :
    pinTableGet t i = .ok t[i.toNat] := by unfold pinTableGet; rw [dif_pos h]

theorem pinTableGet_of_ge {t : PinTable} {i : Byte} (h : numPins ≤ i.toNat) :
    pinTableGet t i = .error .invalidPin := by unfold pinTableGet; rw [dif_neg (Nat.not_lt.mpr h)]

theorem pinTableSet_of_lt {t : PinTable} {i : Byte} (st : PinState) (h : i.toNat < numPins) :
    pinTableSet t i st = .ok (t.set i.toNat st) := by unfold pinTableSet; rw [dif_pos h]

theorem pinTableSet_of_ge {t : PinTable} {i : Byte} (st : PinState) (h : numPins ≤ i.toNat) :
    pinTableSet t i st = .error .invalidPin := by unfold pinTableSet; rw [dif_neg (Nat.not_lt.mpr h)]

theorem getElem_initTable (locked : BitVec numPins) (i : Nat) (h : i < numPins) :
    (initTable locked)[i] = if locked.getLsbD i then .locked else .unused := by
  simp [initTable, BitVec.getLsbD_eq_getElem h]

/-! ## Operands -/

@[simp] theorem stateByte_digitalIn : stateByte .digitalIn = 0x02#8 := rfl
@[simp] theorem stateByte_digitalOut : stateByte .digitalOut = 0x03#8 := rfl
@[simp] theorem errorByte_invalidPacket : errorByte .invalidPacket = 0x02#8 := rfl
@[simp] theorem errorByte_invalidPin : errorByte .invalidPin = 0x01#8 := rfl
@[simp] theorem levelByte_false : levelByte false = 0x00#8 := rfl
@[simp] theorem levelByte_true : levelByte true = 0x01#8 := rfl
@[simp] theorem dirState_in : dirState 0x02#8 = some .digitalIn := rfl
@[simp] theorem dirState_out : dirState 0x03#8 = some .digitalOut := rfl

/-- The operand forms with the bytes of R87 to R90 written out. -/
theorem dirState_eq (d : Byte) : dirState d =
    if d = 0x02#8 then some .digitalIn else if d = 0x03#8 then some .digitalOut else none := rfl

theorem stateOfByte_eq (b : Byte) : stateOfByte b =
    if b = 0x00#8 then some .unused else if b = 0x01#8 then some .locked
    else if b = 0x02#8 then some .digitalIn else if b = 0x03#8 then some .digitalOut else none := rfl

theorem levelOfByte_eq (b : Byte) : levelOfByte b =
    if b = 0x00#8 then some false else if b = 0x01#8 then some true else none := rfl

theorem errorOfByte_eq (b : Byte) : errorOfByte b =
    if b = 0x01#8 then some .invalidPin else if b = 0x02#8 then some .invalidPacket else none := rfl

/-- The two legal directions, with the state each asks for (R87). -/
theorem dirState_eq_some {d : Byte} {st : PinState} (h : dirState d = some st) :
    (d = 0x02#8 ∧ st = .digitalIn) ∨ (d = 0x03#8 ∧ st = .digitalOut) := by
  unfold dirState at h
  split at h
  · next hd => cases h; exact .inl ⟨hd, rfl⟩
  · split at h
    · next hd => cases h; exact .inr ⟨hd, rfl⟩
    · cases h

/-- Every other direction byte is illegal (R87). -/
theorem dirState_eq_none {d : Byte} (hi : d ≠ 0x02#8) (ho : d ≠ 0x03#8) : dirState d = none :=
  (if_neg hi).trans (if_neg ho)

@[simp] theorem isLocked_eq_true {st : PinState} : isLocked st = true ↔ st = .locked := by cases st <;> decide
@[simp] theorem isDigitalIn_eq_true {st : PinState} : isDigitalIn st = true ↔ st = .digitalIn := by
  cases st <;> decide

/-! ## Responding -/

theorem respond_of_length {f : Frame} (h1 : 1 ≤ f.length) (h2 : f.length ≤ packetMaxSize) (s : State) :
    respond f s = .next (s.putFrame f) := if_pos ⟨h1, h2⟩

/-- All that `respond` can do when it answers a next state. -/
theorem respond_eq_next {f : Frame} {s t : State} (h : respond f s = .next t) :
    t = s.putFrame f ∧ 1 ≤ f.length ∧ f.length ≤ packetMaxSize := by
  unfold respond at h
  split at h
  · next hf => cases h; exact ⟨rfl, hf⟩
  · cases h

/-- `raise` always answers the ERROR frame and writes nothing else. -/
@[simp] theorem raise_eq (e : ErrorCode) (s : State) : raise e s = .next (s.putFrame [0xFF#8, errorByte e]) :=
  respond_of_length (by simp) (by simp [packetMaxSize]) s

@[simp] theorem refuseDirection_eq (s : State) : refuseDirection s = .next (s.putFrame [0xFF#8, 0x02#8]) :=
  respond_of_length (by decide) (by decide) s

@[simp] theorem offered_putFrame (s : State) (f : Frame) : offered (s.putFrame f) = .ok f := by
  unfold offered; rw [State.putFrame_tx, State.putFrame_txLen, Memory.load_ofFrame]

/-- Any state whose TX holds exactly a frame offers that frame. -/
theorem offered_of_tx {s : State} {f : Frame} (htx : s.tx = Memory.ofFrame f) (hlen : s.txLen = f.length) :
    offered s = .ok f := by
  unfold offered; rw [htx, hlen, Memory.load_ofFrame]

/-! ## Receiving and handing over -/

/-- The frame spaces of the state after reset are canonical. -/
theorem reset_memory_wf : State.reset.rx.wf = true ∧ State.reset.tx.wf = true := by decide

/-- An accepted frame leaves RX canonical. -/
theorem accept_rx_wf (s : State) (b : Frame) : (s.accept b).rx.wf = true :=
  Memory.wf_ofFrame (by rw [List.length_take]; exact Nat.min_le_left ..)

/-- A response leaves TX canonical. -/
theorem respond_tx_wf {f : Frame} {s t : State} (h : respond f s = .next t) : t.tx.wf = true := by
  obtain ⟨rfl, -, hn⟩ := respond_eq_next h
  exact Memory.wf_ofFrame hn

/-- The frame just accepted is fetched, as far as RX holds it. -/
@[simp] theorem fetch_accept (s : State) (b : Frame) : fetch (s.accept b) = .ok (b.take packetMaxSize) := by
  unfold fetch
  rw [State.accept_rx, State.accept_rxLen, show min (min b.length 101) packetMaxSize = (b.take 100).length by
    rw [List.length_take]; simp only [packetMaxSize]; omega]
  exact Memory.load_ofFrame _

/-- All that `handOver` can do when it answers a next state. -/
theorem handOver_eq_next {after : State → Frame → State} {s t : State} (h : handOver after s = .next t) :
    ∃ f, offered s = .ok f ∧ t = after s f := by
  unfold handOver at h
  split at h
  · cases h
  · next f hf => cases h; exact ⟨f, hf, rfl⟩

theorem handOver_of_offered {after : State → Frame → State} {s : State} {f : Frame} (h : offered s = .ok f) :
    handOver after s = .next (after s f) := by
  unfold handOver; rw [h]

end Sys2Proof.Machine
end

