-- ==== Sys2Proof/Laws/Exec.lean ====
section
/-! SUPPORT. What the instructions and the step can do, said once. -/

namespace Sys2Proof.Machine

/-- The next states of an instruction. -/
inductive Effect (i : Instr) (s : State) : State → Prop where
  /-- PING. -/
  | pong : i = .ping → Effect i s (s.putFrame [0x18#8])
  /-- An error, or a peripheral-to-host opcode turned away: nothing written but the response. -/
  | error (e : ErrorCode) : Effect i s (s.putFrame [0xFF#8, errorByte e])
  /-- RESET. -/
  | table : i = .reset → Effect i s ({ s with pin := initTable s.params.lockedPins }.putFrame [0xC1#8])
  /-- LED_HIGH. -/
  | ledOn : i = .ledHigh → Effect i s ({ s with led := true }.putFrame [0x55#8])
  /-- LED_LOW. -/
  | ledOff : i = .ledLow → Effect i s ({ s with led := false }.putFrame [0xAA#8])
  /-- A PIN_INIT that succeeds. -/
  | init (p d : Byte) (st : PinState) (hp : p.toNat < numPins) : i = .pinInit p d → dirState d = some st →
      s.pin[p.toNat] ≠ .locked → Effect i s ({ s with pin := s.pin.set p.toNat st }.putFrame [0x0F#8, p, d])
  /-- A DIGITAL_READ that succeeds. -/
  | read (p : Byte) (hp : p.toNat < numPins) : i = .digitalRead p → s.pin[p.toNat] = .digitalIn →
      Effect i s ((sample p s).2.putFrame [0xEF#8, p, levelByte (s.ports.pinLevel.getLsbD p.toNat)])
  /-- A REQUEST under a policy of its own. -/
  | reply (pl : List Byte) : i = .request pl → s.params.requestPolicy = .extension →
      replyFrame (Config.requestReply pl s.pin) = true → Effect i s (s.putFrame (Config.requestReply pl s.pin))

/-- A frame that decodes has 1 to 100 bytes. -/
theorem length_of_isPacket {f : Frame} (h : isPacket f = true) : 1 ≤ f.length ∧ f.length ≤ packetMaxSize := by
  unfold isPacket decode decodeBuffer at h
  by_cases h0 : f.length = 0
  · rw [if_pos h0] at h; cases h
  · by_cases hn : f.length > packetMaxSize
    · rw [if_neg h0, if_pos hn] at h; cases h
    · omega

/-- A reply of `replyFrame` is the encoding of one of the packets of `replyAllowed`. -/
theorem replyFrame_eq_true {f : Frame} (h : replyFrame f = true) : ∃ i, decode f = .ok i ∧ replyAllowed i = true := by
  unfold replyFrame at h
  split at h
  · next i hi => exact ⟨i, hi, h⟩
  · cases h

/-- Such a reply is a valid packet. -/
theorem isPacket_of_replyFrame {f : Frame} (h : replyFrame f = true) : isPacket f = true := by
  obtain ⟨i, hi, -⟩ := replyFrame_eq_true h
  unfold isPacket; rw [hi]

/-- Every instruction answers a next state, and one of the effects above. -/
theorem exec_effect (i : Instr) (s : State) : ∃ t, exec i s = .next t ∧ Effect i s t := by
  cases i with
  | ping => exact ⟨_, respond_of_length (f := [0x18#8]) (by decide) (by decide) s, .pong rfl⟩
  | reset => exact ⟨_, respond_of_length (f := [0xC1#8]) (by decide) (by decide) _, .table rfl⟩
  | startup => exact ⟨_, refuseDirection_eq s, .error .invalidPacket⟩
  | ledHigh => exact ⟨_, respond_of_length (f := [0x55#8]) (by decide) (by decide) _, .ledOn rfl⟩
  | ledLow => exact ⟨_, respond_of_length (f := [0xAA#8]) (by decide) (by decide) _, .ledOff rfl⟩
  | error c => exact ⟨_, refuseDirection_eq s, .error .invalidPacket⟩
  | pinAck p st => exact ⟨_, refuseDirection_eq s, .error .invalidPacket⟩
  | digitalData p v => exact ⟨_, refuseDirection_eq s, .error .invalidPacket⟩
  | digitalRead p =>
    by_cases hp : p.toNat < numPins
    · by_cases hin : s.pin[p.toNat] = .digitalIn
      · refine ⟨_, ?_, .read p hp rfl hin⟩
        simp only [exec, execDigitalRead, pinTableGet_of_lt hp, isDigitalIn_eq_true.mpr hin, if_true]
        exact respond_of_length (by simp) (by simp [packetMaxSize]) _
      · refine ⟨_, ?_, .error .invalidPin⟩
        simp only [exec, execDigitalRead, pinTableGet_of_lt hp, isDigitalIn_eq_true, if_neg hin, raise_eq]
    · refine ⟨_, ?_, .error .invalidPin⟩
      simp only [exec, execDigitalRead, pinTableGet_of_ge (Nat.not_lt.mp hp), raise_eq]
  | pinInit p d =>
    cases hd : dirState d with
    | none => exact ⟨_, by simp only [exec, execPinInit, hd, raise_eq], .error .invalidPacket⟩
    | some st =>
      by_cases hp : p.toNat < numPins
      · by_cases hl : s.pin[p.toNat] = .locked
        · refine ⟨_, ?_, .error .invalidPin⟩
          simp only [exec, execPinInit, hd, pinTableGet_of_lt hp, isLocked_eq_true.mpr hl, if_true, raise_eq]
        · refine ⟨_, ?_, .init p d st hp rfl hd hl⟩
          simp only [exec, execPinInit, hd, pinTableGet_of_lt hp, isLocked_eq_true, if_neg hl, pinTableSet_of_lt st hp]
          rw [show d = stateByte st by rcases dirState_eq_some hd with ⟨rfl, rfl⟩ | ⟨rfl, rfl⟩ <;> rfl]
          exact respond_of_length (by simp) (by simp [packetMaxSize]) _
      · refine ⟨_, ?_, .error .invalidPin⟩
        simp only [exec, execPinInit, hd, pinTableGet_of_ge (Nat.not_lt.mp hp), raise_eq]
  | request pl =>
    cases hpol : s.params.requestPolicy with
    | errorInvalidPacket =>
      exact ⟨_, by simp only [exec, execRequest, hpol, raise_eq], .error .invalidPacket⟩
    | extension =>
      by_cases hr : replyFrame (Config.requestReply pl s.pin) = true
      · refine ⟨_, ?_, .reply pl rfl hpol hr⟩
        have hl := length_of_isPacket (isPacket_of_replyFrame hr)
        simp only [exec, execRequest, hpol, if_pos hr]
        exact respond_of_length hl.1 hl.2 s
      · exact ⟨_, by simp only [exec, execRequest, hpol, if_neg hr, raise_eq], .error .invalidPacket⟩

/-- All that an instruction can do when it answers a next state. -/
theorem effect_of_exec {i : Instr} {s t : State} (h : exec i s = .next t) : Effect i s t := by
  obtain ⟨u, hu, he⟩ := exec_effect i s
  rw [h] at hu
  cases hu
  exact he

/-- All that an exchange of an accepted frame can do. -/
theorem exchange_accept (s : State) (b : Frame) :
    exchange (s.accept b) =
      match decodeBuffer (min b.length 101) (b.take 100) with
      | .error _ => .next ((s.accept b).putFrame [0xFF#8, 0x02#8])
      | .ok i => exec i (s.accept b) := by
  unfold exchange
  rw [fetch_accept]
  show (match decodeBuffer (min b.length 101) (b.take 100) with
    | .error r => raise r.code (s.accept b)
    | .ok i => exec i (s.accept b)) = _
  cases decodeBuffer (min b.length 101) (b.take 100) with
  | error r => simp
  | ok i => rfl

@[simp] theorem offered_latch (s : State) : offered s.latch = offered s := by
  unfold offered; rw [State.latch_tx, State.latch_txLen]

/-- What Decode makes of a frame in the receive buffer. -/
def received (b : Frame) : Except DecodeReject Instr := decodeBuffer (min b.length 101) (b.take 100)

/-- The next states of a step. -/
inductive Steps (s : State) : State → Prop where
  /-- Hardware reset. -/
  | reset : s.latch.ports.rst = true → Steps s s.latch.hardwareReset
  /-- Nothing happens: no frame at the port in IDLE, or the transport not ready in ANNOUNCE or BUSY. -/
  | wait : s.latch.ports.rst = false → (s.phase = .idle → s.latch.ports.rxFrame = none) →
      (s.phase ≠ .idle → s.latch.ports.txReady = false) → Steps s s.latch
  /-- The announcement is taken. -/
  | announced (f : Frame) : s.latch.ports.rst = false → s.phase = .announce → s.latch.ports.txReady = true →
      offered s = .ok f → Steps s (s.latch.announceTaken f)
  /-- The response is taken. -/
  | answered (f : Frame) : s.latch.ports.rst = false → s.phase = .busy → s.latch.ports.txReady = true →
      offered s = .ok f → Steps s (s.latch.responseTaken f)
  /-- A frame is accepted that does not decode. -/
  | rejected (b : Frame) (r : DecodeReject) : s.latch.ports.rst = false → s.phase = .idle →
      s.latch.ports.rxFrame = some b → received b = .error r → Steps s ((s.latch.accept b).putFrame [0xFF#8, 0x02#8])
  /-- A frame is accepted that decodes, and its packet is executed. -/
  | executed (b : Frame) (i : Instr) {t : State} : s.latch.ports.rst = false → s.phase = .idle →
      s.latch.ports.rxFrame = some b → received b = .ok i → Effect i (s.latch.accept b) t → Steps s t

/-- All that a step can do when it answers a next state. -/
theorem steps_of_step {s t : State} (h : step s = .next t) : Steps s t := by
  unfold step cycle at h
  cases hr : s.latch.ports.rst with
  | true => rw [if_pos hr] at h; cases h; exact .reset hr
  | false =>
    rw [if_neg (by rw [hr]; decide), State.latch_phase] at h
    cases hp : s.phase with
    | announce =>
      simp only [hp] at h
      cases ht : s.latch.ports.txReady with
      | true =>
        rw [if_pos ht] at h
        obtain ⟨f, hf, rfl⟩ := handOver_eq_next h
        exact .announced f hr hp ht (offered_latch s ▸ hf)
      | false =>
        rw [if_neg (by rw [ht]; decide)] at h
        cases h
        exact .wait hr (fun hi => by rw [hp] at hi; cases hi) (fun _ => ht)
    | busy =>
      simp only [hp] at h
      cases ht : s.latch.ports.txReady with
      | true =>
        rw [if_pos ht] at h
        obtain ⟨f, hf, rfl⟩ := handOver_eq_next h
        exact .answered f hr hp ht (offered_latch s ▸ hf)
      | false =>
        rw [if_neg (by rw [ht]; decide)] at h
        cases h
        exact .wait hr (fun hi => by rw [hp] at hi; cases hi) (fun _ => ht)
    | idle =>
      simp only [hp] at h
      cases hb : s.latch.ports.rxFrame with
      | none =>
        simp only [hb] at h
        cases h
        exact .wait hr (fun _ => hb) (fun hi => absurd hp hi)
      | some b =>
        simp only [hb, exchange_accept] at h
        cases hd : decodeBuffer (min b.length 101) (b.take 100) with
        | error r => simp only [hd] at h; cases h; exact .rejected b r hr hp hb hd
        | ok i => simp only [hd] at h; exact .executed b i hr hp hb hd (effect_of_exec h)

/-- A run of a machine is its first step and the rest. -/
theorem coreRun_succ (M : Host.Core) {s t : M.State} (h : M.step s = .next t) (n : Nat) :
    M.run (n + 1) s = M.run n t := by
  simp only [Host.Core.run, h]

/-- The same for this machine. -/
theorem run_succ {s t : State} (h : step s = .next t) (n : Nat) :
    Host.Core.run Sys2Proof.core (n + 1) s = Host.Core.run Sys2Proof.core n t :=
  coreRun_succ Sys2Proof.core h n

end Sys2Proof.Machine
end

