-- ==== Sys2Proof/Laws/PerInstr.lean ====
section
/-! SUPPORT. Statements about every instruction as syntax, one lemma per constructor. -/

namespace Sys2Proof.Laws.FrameLength

/-- The frame of a valid packet has a length its opcode allows, and the opcode byte stands first (R80, R81, R114). -/
def Statement (i : Instr) : Prop :=
  i.wellFormed = true → lenOK i.opcode (encode i).length = true ∧ (encode i).head? = some i.opcode.value

theorem ping : Statement .ping := fun _ => ⟨rfl, rfl⟩
theorem reset : Statement .reset := fun _ => ⟨rfl, rfl⟩
theorem startup : Statement .startup := fun _ => ⟨rfl, rfl⟩
theorem ledHigh : Statement .ledHigh := fun _ => ⟨rfl, rfl⟩
theorem ledLow : Statement .ledLow := fun _ => ⟨rfl, rfl⟩
theorem digitalRead (pin : Byte) : Statement (.digitalRead pin) := fun _ => ⟨rfl, rfl⟩
theorem error (code : Byte) : Statement (.error code) := fun _ => ⟨rfl, rfl⟩
theorem pinInit (pin dir : Byte) : Statement (.pinInit pin dir) := fun _ => ⟨rfl, rfl⟩
theorem pinAck (pin state : Byte) : Statement (.pinAck pin state) := fun _ => ⟨rfl, rfl⟩
theorem digitalData (pin value : Byte) : Statement (.digitalData pin value) := fun _ => ⟨rfl, rfl⟩
theorem request (payload : List Byte) : Statement (.request payload) := by
  intro h
  have hn : 1 + payload.length ≤ 100 := of_decide_eq_true h
  refine ⟨?_, rfl⟩
  show (decide (1 ≤ payload.length + 1) && decide (payload.length + 1 ≤ 100)) = true
  rw [decide_eq_true (by omega), decide_eq_true (by omega)]; rfl

end Sys2Proof.Laws.FrameLength
end

