-- ==== Sys2Proof/Tests/Slice0.lean ====
section
/-! SUPPORT. Tests: expected results are those of spec/95_test_vectors.md (its section is named at each), or words
written out bit by bit from 30_encoding.md R82 and R85. Then one witness for the hypotheses of each statement. -/

namespace Sys2Proof.Tests

open Sys2Proof Sys2Proof.Machine

/-- The next state of an outcome. -/
def nextOf : Result → Option State
  | .next t => some t
  | .fault _ => none
  | .refused _ => none

/-- The state after reset and announcement, with the given LOCKED_PINS (95, Conventions). -/
def idle (locked : BitVec numPins) : State :=
  { State.boot ⟨locked, .errorInvalidPacket⟩ [] with phase := .idle, startupPending := false }

/-- A frame comes at the port in the next step, with all pins at one level. -/
def send (s : State) (b : Frame) (level : Bool) : State :=
  { s with inputs := [⟨false, some b, true, if level then BitVec.allOnes numPins else 0⟩] }

/-- A slot set by hand. -/
def setPin (s : State) (i : Fin numPins) (st : PinState) : State := { s with pin := s.pin.set i st }

/-- What the next step answers to a frame. -/
def reply (s : State) (b : Frame) (level : Bool) : Option Frame := (nextOf (step (send s b level))).map txFrame

/-! ## Well-formedness -/

theorem test_request_99_wellFormed : (Instr.request (List.replicate 99 0#8)).wellFormed = true := by decide
theorem test_request_100_illFormed : (Instr.request (List.replicate 100 0#8)).wellFormed = false := by decide

/-! ## Decode: one word of every opcode, bit by bit from R82 and R85 -/

theorem test_decode_ping : decode [0b00011000#8] = .ok .ping := by decide
theorem test_decode_reset : decode [0b11000000#8] = .ok .reset := by decide
theorem test_decode_startup : decode [0b11000001#8] = .ok .startup := by decide
theorem test_decode_ledHigh : decode [0b01010101#8] = .ok .ledHigh := by decide
theorem test_decode_ledLow : decode [0b10101010#8] = .ok .ledLow := by decide
theorem test_decode_digitalRead : decode [0b00010000#8, 0b00000101#8] = .ok (.digitalRead 5#8) := by decide
theorem test_decode_error : decode [0b11111111#8, 0b00000010#8] = .ok (.error 2#8) := by decide
theorem test_decode_pinInit : decode [0b11110000#8, 0b00000101#8, 0b00000011#8] = .ok (.pinInit 5#8 3#8) := by decide
theorem test_decode_pinAck : decode [0b00001111#8, 0b01000101#8, 0b00000010#8] = .ok (.pinAck 69#8 2#8) := by decide
theorem test_decode_digitalData : decode [0b11101111#8, 0b00000111#8, 0b00000001#8] = .ok (.digitalData 7#8 1#8) := by
  decide
theorem test_decode_request : decode [0b00010111#8, 0xDE#8, 0xAD#8] = .ok (.request [0xDE#8, 0xAD#8]) := by decide

/-- 95 §2.1: bytes next to an opcode, and the error codes, are no opcodes. -/
theorem test_opcodeOf_none :
    [0x00#8, 0x0E#8, 0x11#8, 0x16#8, 0x19#8, 0x54#8, 0x56#8, 0xA9#8, 0xAB#8, 0xBF#8, 0xC2#8, 0xEE#8, 0xF1#8, 0xFE#8,
      0x01#8, 0x02#8, 0x03#8].all (fun x => opcodeOf x == none) = true := by decide

/-- 95 §2.2 rows 1, 3, 5, 8, 9, 12, 13, 16, 18, 24 to 27: frames that fail. -/
theorem test_decode_rejects :
    [[], [0x18#8, 0x00#8], [0xC0#8, 0xC0#8], [0x55#8, 0x01#8], [0x10#8], [0x10#8, 0x05#8, 0x00#8], [0xF0#8],
      [0xF0#8, 0x05#8], [0xF0#8, 0x05#8, 0x03#8, 0x00#8], [0xFF#8], [0xFF#8, 0x01#8, 0x00#8], [0x00#8],
      [0x11#8, 0x05#8], [0xEE#8, 0x05#8, 0x01#8], [0x01#8], [0x02#8]].all (fun b => !isPacket b) = true := by decide

/-- 95 §2.2 rows 20 to 22: 100 bytes are the most. -/
theorem test_decode_bound :
    isPacket (0x17#8 :: List.replicate 99 0#8) = true ∧ isPacket (0x17#8 :: List.replicate 100 0#8) = false ∧
    isPacket (0x18#8 :: List.replicate 100 0#8) = false := by decide

/-- A table word with no bits for its operands reads them as zero. -/
theorem test_table_words :
    decodeTableWord 8 0x10 = some (.digitalRead 0#8) ∧ decodeTableWord 24 0x0305F0 = some (.pinInit 5#8 3#8) ∧
    decodeTableWord 8 0x17 = some (.request []) ∧ decodeTableWord 8 0x19 = none := by decide

/-! ## Instructions: one step each -/

/-- 95 §2.4 row 2. -/
theorem test_ping : reply (idle 0) [0x18#8] false = some [0x18#8] := by decide
/-- 95 §2.4 row 5: LOCKED_PINS = {0, 1}, PIN[2] = DIGITAL_OUT. -/
theorem test_reset : (nextOf (step (send (setPin (idle 3#70) 2 .digitalOut) [0xC0#8] false))).map
    (fun t => (txFrame t, t.pin[0], t.pin[1], t.pin[2])) = some ([0xC1#8], .locked, .locked, .unused) := by decide
/-- 95 §2.7 row 5: RESET does not touch the LED. -/
theorem test_reset_keeps_led : (nextOf (step (send { idle 0 with led := true } [0xC0#8] false))).map State.led
    = some true := by decide
/-- 95 §2.4 row 6. -/
theorem test_startup : reply (idle 0) [0xC1#8] false = some [0xFF#8, 0x02#8] := by decide
/-- 95 §2.7 row 1. -/
theorem test_ledHigh : (nextOf (step (send (idle 0) [0x55#8] false))).map (fun t => (txFrame t, t.led))
    = some ([0x55#8], true) := by decide
/-- 95 §2.7 row 3. -/
theorem test_ledLow : (nextOf (step (send { idle 0 with led := true } [0xAA#8] false))).map (fun t => (txFrame t, t.led))
    = some ([0xAA#8], false) := by decide
/-- 95 §2.6 rows 1 and 2. -/
theorem test_digitalRead : reply (setPin (idle 0) 5 .digitalIn) [0x10#8, 0x05#8] true = some [0xEF#8, 0x05#8, 0x01#8] ∧
    reply (setPin (idle 0) 5 .digitalIn) [0x10#8, 0x05#8] false = some [0xEF#8, 0x05#8, 0x00#8] := by decide
/-- 95 §2.6 rows 4 and 6. -/
theorem test_digitalRead_errors : reply (setPin (idle 0) 5 .digitalOut) [0x10#8, 0x05#8] true = some [0xFF#8, 0x01#8] ∧
    reply (idle 0) [0x10#8, 0x46#8] true = some [0xFF#8, 0x01#8] := by decide
/-- 95 §2.8 row 1. -/
theorem test_error : reply (idle 0) [0xFF#8, 0x01#8] false = some [0xFF#8, 0x02#8] := by decide
/-- 95 §2.5 rows 2 and 5: the last valid pin; the other direction. -/
theorem test_pinInit : (nextOf (step (send (idle 0) [0xF0#8, 0x45#8, 0x03#8] false))).map (fun t => (txFrame t, t.pin[69]))
      = some ([0x0F#8, 0x45#8, 0x03#8], .digitalOut) ∧
    (nextOf (step (send (setPin (idle 0) 5 .digitalOut) [0xF0#8, 0x05#8, 0x02#8] false))).map (fun t => t.pin[5])
      = some .digitalIn := by decide
/-- 95 §2.5 rows 3, 11, 12, 14: out of range, both defects, LOCKED, LOCKED with a bad direction. -/
theorem test_pinInit_errors : reply (idle 0) [0xF0#8, 0x46#8, 0x03#8] false = some [0xFF#8, 0x01#8] ∧
    reply (idle 0) [0xF0#8, 0x63#8, 0x07#8] false = some [0xFF#8, 0x02#8] ∧
    reply (idle 8192#70) [0xF0#8, 0x0D#8, 0x02#8] false = some [0xFF#8, 0x01#8] ∧
    reply (idle 8192#70) [0xF0#8, 0x0D#8, 0x09#8] false = some [0xFF#8, 0x02#8] := by decide
/-- 95 §2.5 row 15. -/
theorem test_pinAck : reply (idle 0) [0x0F#8, 0x05#8, 0x03#8] false = some [0xFF#8, 0x02#8] := by decide
/-- 95 §2.6 row 9. -/
theorem test_digitalData : reply (idle 0) [0xEF#8, 0x05#8, 0x01#8] false = some [0xFF#8, 0x02#8] := by decide
/-- 95 §2.8 row 4: it does not read pin 5. -/
theorem test_request : reply (setPin (idle 0) 5 .digitalIn) [0x17#8, 0x05#8] true = some [0xFF#8, 0x02#8] := by decide

/-! ## The sequencer -/

/-- 95 §2.4 row 1: the first step after hardware reset sends the announcement, once. -/
theorem test_announcement : (nextOf (step State.reset)).map (fun t => (t.sent, t.startupPending, t.phase))
    = some ([[0xC1#8]], false, .idle) := by decide
/-- 95 §2.7 row 6: hardware reset clears the LED and offers the announcement. -/
theorem test_hardware_reset : (nextOf (step { idle 0 with led := true, inputs := [⟨true, none, true, 0⟩] })).map
    (fun t => (t.led, t.phase, txFrame t)) = some (false, .announce, [0xC1#8]) := by decide
/-- 95 §2.2 row 1 and D21: the empty frame is answered. -/
theorem test_empty_frame : reply (idle 0) [] false = some [0xFF#8, 0x02#8] := by decide
/-- 95 §2.2 row 22: an oversized frame is answered, and RX_LEN saturates (R34). -/
theorem test_oversized_frame : (nextOf (step (send (idle 0) (List.replicate 120 0x18#8) false))).map
    (fun t => (txFrame t, t.rxLen, t.rx.length)) = some ([0xFF#8, 0x02#8], 101, 100) := by decide +kernel

/-! ## Witnesses: states and operands that meet the hypotheses of each statement -/

theorem witness_DecodeAcceptsExactlyValidFrames :
    decode [0xF0#8, 0x05#8, 0x03#8] = .ok (.pinInit 5#8 3#8) ∧ opcodeOf 0xF0#8 = some .pinInit ∧
    lenOK .pinInit 3 = true ∧ decode [0xF0#8, 0x05#8] = .error (.wrongLength .pinInit 2) := by decide

theorem witness_DecodeEncodeAgree :
    (Instr.request (List.replicate 99 0xFF#8)).wellFormed = true ∧ (Instr.pinInit 255#8 255#8).wellFormed = true ∧
    decode [0xF0#8, 0xFF#8, 0xFF#8] = .ok (.pinInit 255#8 255#8) := by decide

theorem witness_RequestDecodesAtEveryLength :
    (List.replicate 99 0#8).length ≤ 99 ∧ 99 < (List.replicate 100 0#8).length := by decide

theorem witness_PinTableGetReadsOrFails : (69#8).toNat < 70 ∧ 70 ≤ (70#8).toNat := by decide

theorem witness_PinTableSetWritesOneSlot : (69#8).toNat < 70 ∧ 70 ≤ (70#8).toNat ∧ 70 ≤ (255#8).toNat := by decide

theorem witness_InitTableLocksExactlyLockedPins :
    (69 < 70) ∧ (BitVec.twoPow 70 69).getLsbD 69 = true ∧ (BitVec.twoPow 70 69).getLsbD 68 = false := by decide

/-- One witness for each clause: direction 01 and 04; pin 70; pin 69 LOCKED; pin 69 not LOCKED, both directions. -/
theorem witness_PinInitCases :
    (0x01#8 ≠ 0x02#8 ∧ 0x01#8 ≠ 0x03#8 ∧ 0x04#8 ≠ 0x02#8 ∧ 0x04#8 ≠ 0x03#8) ∧ 70 ≤ (70#8).toNat ∧
    (idle (BitVec.twoPow 70 69)).pin[(69#8).toNat] = .locked ∧ (idle 0).pin[(69#8).toNat] ≠ .locked := by decide

theorem witness_PinInitNeverChangesLockedPin :
    (69#8).toNat < 70 ∧ (idle (BitVec.twoPow 70 69)).pin[(69#8).toNat] = .locked := by decide

/-- One witness for each clause: pin 70; pin 69 not DIGITAL_IN; pin 69 DIGITAL_IN. -/
theorem witness_DigitalReadCases :
    70 ≤ (70#8).toNat ∧ (idle 0).pin[(69#8).toNat] ≠ .digitalIn ∧
    (setPin (idle 0) 69 .digitalIn).pin[(69#8).toNat] = .digitalIn := by decide

theorem witness_PeripheralOpcodesAnswerInvalidPacket :
    Instr.pinAck 99#8 9#8 ∈ [Instr.startup, .error 99#8, .pinAck 99#8 9#8, .digitalData 99#8 9#8] := by decide

theorem witness_RequestUnderDefaultPolicy : (idle 0).params.requestPolicy = .errorInvalidPacket := by decide

/-- One witness for each clause. -/
theorem witness_PeripheralFramesHaveOneUse :
    (∃ t, exec (.digitalRead 70#8) (idle 0) = .next t ∧ offered t = .ok (0xFF#8 :: [0x01#8])) ∧
    (∃ t, exec (.pinInit 69#8 2#8) (idle 0) = .next t ∧ offered t = .ok (0x0F#8 :: [69#8, 2#8])) ∧
    (∃ t, exec (.digitalRead 69#8) (setPin (idle 0) 69 .digitalIn) = .next t ∧
      offered t = .ok (0xEF#8 :: [69#8, 0#8])) ∧
    ∃ t, exec .reset (idle 0) = .next t ∧ offered t = .ok (0xC1#8 :: []) :=
  ⟨⟨_, rfl, by decide⟩, ⟨_, rfl, by decide⟩, ⟨_, rfl, by decide⟩, _, rfl, by decide⟩

/-- R90, R170: a policy of its own may answer one of the two error codes and no other; R86, R131, R143, R146. -/
theorem test_reply_frames :
    replyFrame [0xFF#8, 0x01#8] = true ∧ replyFrame [0xFF#8, 0x63#8] = false ∧ replyFrame [0xFF#8, 0x00#8] = false ∧
    replyFrame [0x0F#8, 0x63#8, 0x09#8] = false ∧ replyFrame [0xEF#8, 0x05#8, 0x01#8] = false ∧
    replyFrame [0xC1#8] = false ∧ replyFrame [0x17#8, 0xDE#8, 0xAD#8] = true ∧ replyFrame [] = false := by decide

theorem witness_EveryInstructionFrame :
    ∃ t, exec (.pinInit 5#8 3#8) (idle 0) = .next t ∧ t.pin[5] ≠ (idle 0).pin[5] := ⟨_, rfl, by decide⟩

theorem witness_TransmitBufferHoldsOneFrame : ∃ t, exec .ping (idle 0) = .next t := ⟨_, rfl⟩

/-- A step that answers an error. -/
theorem witness_ErrorResponseWritesNothing :
    (send (idle 0) [0x10#8, 0x05#8] true).phase = .idle ∧
    (send (idle 0) [0x10#8, 0x05#8] true).inputs = [⟨false, some [0x10#8, 0x05#8], true, BitVec.allOnes 70⟩] ∧
    ∃ t, step (send (idle 0) [0x10#8, 0x05#8] true) = .next t ∧ offered t = .ok [0xFF#8, 0x01#8] :=
  ⟨by decide, by decide, _, rfl, by decide⟩

theorem witness_SampleOnlyOnSuccessfulRead :
    ∃ t, exec (.digitalRead 5#8) (setPin (idle 0) 5 .digitalIn) = .next t ∧ t.sampled ≠ (idle 0).sampled :=
  ⟨_, rfl, by decide⟩

theorem witness_StepRunsDecodedInstruction :
    (send (idle 0) [0x55#8] false).phase = .idle ∧
    (send (idle 0) [0x55#8] false).inputs = [⟨false, some [0x55#8], true, 0⟩] ∧ decode [0x55#8] = .ok .ledHigh := by
  decide

theorem witness_FetchWordRunsInNextStep : decodeTableWord 24 0x0246F0 = some (.pinInit 70#8 2#8) := by decide

theorem witness_StepAnswersUndecodableFrame :
    (send (idle 0) [] false).phase = .idle ∧ (send (idle 0) [] false).inputs = [⟨false, some [], true, 0⟩] ∧
    decode [] = .error .empty := by decide

/-- One witness for each clause on the length: 100 and 101 bytes. -/
theorem witness_ReceiveBufferHoldsFrame :
    (send (idle 0) (List.replicate 100 0#8) false).phase = .idle ∧ (List.replicate 100 0#8).length ≤ 100 ∧
    100 < (List.replicate 101 0#8).length ∧
    (nextOf (step (send (idle 0) (List.replicate 101 0#8) false))).isSome = true := by decide +kernel

/-- In the middle of an exchange. -/
theorem witness_HardwareResetFromAnyState :
    ({ idle 0 with phase := .busy, inputs := [⟨true, none, true, 0⟩] } : State).inputs = [⟨true, none, true, 0⟩] := by
  decide

theorem witness_AnnouncementHandedOverOnce :
    State.reset.phase = .announce ∧ offered State.reset = .ok [0xC1#8] ∧
    ({ State.reset with inputs := [⟨false, some [0x18#8], false, 0⟩] } : State).inputs
      = [⟨false, some [0x18#8], false, 0⟩] := by decide

theorem witness_ResponseHeldUntilTaken :
    ∃ t, exec .ping { idle 0 with phase := .busy, inputs := [⟨false, some [0xC0#8], false, 0⟩] } = .next t ∧
      t.phase = .busy ∧ t.inputs = [⟨false, some [0xC0#8], false, 0⟩] ∧ offered t = .ok [0x18#8] :=
  ⟨_, rfl, by decide, by decide, by decide⟩

theorem witness_IdleWaitsForFrame :
    (idle 0).phase = .idle ∧ ({ idle 0 with inputs := [Inputs.quiet] } : State).inputs = [Inputs.quiet] ∧
    Inputs.quiet.rst = false ∧ Inputs.quiet.rxFrame = none := by decide

theorem witness_OneFrameLeavesAtATime :
    ∃ t, step State.reset = .next t ∧ State.reset.phase ≠ .idle ∧ t.phase = .idle := ⟨_, rfl, by decide, by decide⟩

theorem witness_OnlyInitAndResetsChangeSlots :
    ∃ t, step (send (idle 0) [0xF0#8, 0x45#8, 0x02#8] false) = .next t ∧ t.pin[69] ≠ (idle 0).pin[69] :=
  ⟨_, rfl, by decide⟩

theorem witness_OnlyLedCommandsAndResetChangeLed :
    ∃ t, step (send (idle 0) [0x55#8] false) = .next t ∧ t.led ≠ (idle 0).led := ⟨_, rfl, by decide⟩

theorem witness_ReadablePinWasInitialisedForInput :
    (∃ t, step (send (idle 0) [0xF0#8, 0x45#8, 0x02#8] false) = .next t ∧ t.pin[69] = .digitalIn ∧
      (idle 0).pin[69] ≠ .digitalIn) ∧
    ∃ t, step (send (setPin (idle 0) 69 .digitalIn) [0xC0#8] false) = .next t ∧ t.pin[69] ≠ .digitalIn :=
  ⟨⟨_, rfl, by decide, by decide⟩, _, rfl, by decide⟩

/-- The last pin, with one stall before the PIN_ACK is taken, in which another frame waits. -/
theorem witness_InitThenReadAnswersLevel :
    ∃ p x q r : Inputs, (69#8).toNat < 70 ∧ (idle 0).pin[(69#8).toNat] ≠ .locked ∧ (idle 0).phase = .idle ∧
      ({ idle 0 with inputs := [p, x, q, r] } : State).inputs = p :: ([x] ++ q :: r :: []) ∧
      p.rst = false ∧ p.rxFrame = some [0xF0#8, 69#8, 0x02#8] ∧ (∀ y ∈ [x], y.rst = false ∧ y.txReady = false) ∧
      q.rst = false ∧ q.txReady = true ∧ r.rst = false ∧ r.rxFrame = some [0x10#8, 69#8] :=
  ⟨⟨false, some [0xF0#8, 69#8, 0x02#8], true, 0⟩, ⟨false, some [0xC0#8], false, 0⟩, ⟨false, none, true, 0⟩,
    ⟨false, some [0x10#8, 69#8], true, BitVec.allOnes 70⟩, by decide⟩

theorem witness_ResetForgetsConfiguration : ∃ t, exec .reset (setPin (idle 0) 5 .digitalIn) = .next t := ⟨_, rfl⟩

theorem witness_HardwareResetAgainstResetCommand :
    ∃ t u, step { idle 0 with inputs := [⟨true, none, true, 0⟩] } = .next t ∧
      exec .reset { idle 0 with inputs := [⟨true, none, true, 0⟩] } = .next u := ⟨_, _, rfl, rfl⟩

theorem witness_InvalidPinExactlyForPinCauses :
    (idle 0).params.requestPolicy = .errorInvalidPacket ∧ (send (idle 0) [0xF0#8, 0x46#8, 0x02#8] false).phase = .idle ∧
    ∃ t, step (send (idle 0) [0xF0#8, 0x46#8, 0x02#8] false) = .next t ∧ offered t = .ok [0xFF#8, 0x01#8] :=
  ⟨by decide, by decide, _, rfl, by decide⟩

theorem witness_LedNeverInfluencesResponse : ∃ t, exec .ledLow { idle 0 with led := true } = .next t := ⟨_, rfl⟩

/-- A table that differs everywhere but in the slot the frame names. -/
theorem witness_TableInfluencesResponseOnlyThroughNamedSlot :
    (idle 0).params.requestPolicy = .errorInvalidPacket ∧
    (initTable (BitVec.allOnes 70 ^^^ BitVec.twoPow 70 5))[5] = (idle 0).pin[5] ∧
    (initTable (BitVec.allOnes 70 ^^^ BitVec.twoPow 70 5))[6] ≠ (idle 0).pin[6] ∧
    ∃ t, exec (.pinInit 5#8 2#8) (idle 0) = .next t := ⟨by decide, by decide, by decide, _, rfl⟩

theorem witness_ParametersNeverChange : ∃ t, step (send (idle 8192#70) [0xC0#8] false) = .next t := ⟨_, rfl⟩

theorem witness_TwoReadsMayDiffer : (69#8).toNat < 70 ∧ (8192#70).getLsbD (69#8).toNat = false := by decide

theorem witness_OutputPortsShowState : State.reset.txValid = true ∧ TxFits State.reset := by decide

theorem witness_ExchangeIsRequestMap :
    (send (idle 0) [0x10#8, 0x45#8] true).phase = .idle ∧
    (send (idle 0) [0x10#8, 0x45#8] true).inputs = [⟨false, some [0x10#8, 0x45#8], true, BitVec.allOnes 70⟩] ∧
    (idle 0).params.requestPolicy = .errorInvalidPacket := by decide

/-- One stall in between, with another frame at the port. -/
theorem witness_EveryRequestGetsExactlyOneResponse :
    ∃ p q r : Inputs, (idle 0).phase = .idle ∧ p.rst = false ∧ p.rxFrame = some [0x18#8] ∧
      (∀ x ∈ [r], x.rst = false ∧ x.txReady = false) ∧ r.rxFrame = some [0xC0#8] ∧ q.rst = false ∧ q.txReady = true :=
  ⟨⟨false, some [0x18#8], true, 0⟩, ⟨false, none, true, 0⟩, ⟨false, some [0xC0#8], false, 0⟩, by decide⟩

/-- A state that meets the invariant in the middle of an exchange, with pins configured. -/
theorem witness_StepKeepsInvariant :
    ∃ s t, step (send (setPin (idle 8192#70) 5 .digitalIn) [0x10#8, 0x05#8] true) = .next s ∧ Inv s ∧
      step s = .next t ∧ s.phase = .busy :=
  ⟨_, _, rfl, ⟨by decide, by decide, by decide, by decide, rfl, by decide⟩, rfl, by decide⟩

theorem witness_StepIsTotalUnderInvariant : Inv State.reset :=
  ⟨by decide, by decide, by decide, by decide, rfl, by decide⟩

theorem witness_RunsAreSafe : ∃ s : State, Reachable s ∧ s.sent = [[0xC1#8]] :=
  ⟨_, .step (.boot ⟨8192#70, .errorInvalidPacket⟩ []) rfl, by decide⟩

end Sys2Proof.Tests
end

section
/-! The state family: what the decoder's answer says about the frame, what an instruction writes and leaves alone, the
step read forwards case by case, the invariant, and the statements about them. -/

namespace Sys2Proof

/-- What the decoder accepts is the encoding of the packet it answers, and fits the buffer. -/
theorem decodeBuffer_eq_ok {n : Nat} {bs : List Byte} {i : Instr} (h : decodeBuffer n bs = .ok i) :
    bs = encode i ∧ n ≤ packetMaxSize := by
  unfold decodeBuffer at h
  by_cases h0 : n = 0
  · rw [if_pos h0] at h; cases h
  by_cases hn : n > packetMaxSize
  · rw [if_neg h0, if_pos hn] at h; cases h
  rw [if_neg h0, if_neg hn] at h
  cases bs with
  | nil => cases h
  | cons b0 payload =>
    cases hop : opcodeOf b0 with
    | none => simp [hop] at h
    | some op =>
      by_cases hlen : lenOK op n = true
      · cases hi : Instr.ofPacket op payload with
        | none => simp [hop, hlen, hi] at h
        | some j =>
          obtain rfl : j = i := by simpa [hop, hlen, hi] using h
          obtain ⟨rfl, rfl⟩ := ofPacket_eq_some hi
          exact ⟨by rw [encode, value_of_opcodeOf hop], Nat.not_lt.mp hn⟩
      · simp [hop, hlen] at h

/-- A frame that decodes is the encoding of its packet (R115). -/
theorem eq_encode_of_decode {b : Frame} {i : Instr} (h : decode b = .ok i) : b = encode i :=
  (decodeBuffer_eq_ok h).1

namespace Machine

/-- An accepted frame whose packet is executed is the encoding of that packet: the receive buffer cuts off nothing. -/
theorem eq_encode_of_received {b : Frame} {i : Instr} (h : received b = .ok i) : b = encode i := by
  obtain ⟨hb, hn⟩ := decodeBuffer_eq_ok h
  have hlen : b.length ≤ 100 := by
    have : min b.length 101 ≤ 100 := hn
    omega
  rwa [List.take_of_length_le hlen] at hb

/-- The frame at the port, named by the packet it decodes to. -/
theorem rxFrame_eq_encode {p : Inputs} {b : Frame} {i : Instr} (hb : p.rxFrame = some b) (hd : received b = .ok i) :
    p.rxFrame = some (encode i) := by
  rw [hb, ← eq_encode_of_received hd]

/-! ## Operand codes -/

/-- Reading a `state` byte inverts writing one (R88). -/
theorem stateOfByte_eq_some_iff {b : Byte} {st : PinState} : stateOfByte b = some st ↔ b = stateByte st := by
  constructor
  · intro h
    unfold stateOfByte at h
    split_ifs at h <;> cases h <;> assumption
  · rintro rfl
    cases st <;> rfl

/-- Reading a `value` byte inverts writing one (R89). -/
theorem levelOfByte_eq_some_iff {b : Byte} {v : Bool} : levelOfByte b = some v ↔ b = levelByte v := by
  constructor
  · intro h
    unfold levelOfByte at h
    split_ifs at h <;> cases h <;> assumption
  · rintro rfl
    cases v <;> rfl

/-- Reading a `code` byte inverts writing one (R90). -/
theorem errorOfByte_eq_some_iff {b : Byte} {e : ErrorCode} : errorOfByte b = some e ↔ b = errorByte e := by
  constructor
  · intro h
    unfold errorOfByte at h
    split_ifs at h <;> cases h <;> assumption
  · rintro rfl
    cases e <;> rfl

/-- A `dir` byte asks for a state exactly when it is one of the two legal ones (R87). -/
theorem dirState_eq_some_iff {d : Byte} {st : PinState} :
    dirState d = some st ↔ (d = 0x02#8 ∧ st = .digitalIn) ∨ (d = 0x03#8 ∧ st = .digitalOut) := by
  constructor
  · exact dirState_eq_some
  · rintro (⟨rfl, rfl⟩ | ⟨rfl, rfl⟩)
    · exact dirState_in
    · exact dirState_out

/-! ## Frames the block may send -/

/-- The frames of R118 are lawful under every policy. -/
theorem lawful_of_sendable (policy : RequestPolicy) {f : Frame} (h : sendable f = true) : lawful policy f = true := by
  cases policy <;> simp [lawful, h]

/-- An ERROR frame of R118 carries code 01 or 02. -/
theorem error_code_of_sendable {xs : List Byte} (h : sendable (0xFF#8 :: xs) = true) : xs = [0x01#8] ∨ xs = [0x02#8] := by
  match xs with
  | [] => simp [sendable] at h
  | [x] => simpa [sendable] using h
  | [_, _] => simp [sendable] at h
  | _ :: _ :: _ :: _ => simp [sendable] at h

/-- An ERROR that a REQUEST_POLICY of its own answers with carries code 01 or 02 (log 3). -/
theorem error_code_of_replyFrame {xs : List Byte} (h : replyFrame (0xFF#8 :: xs) = true) :
    xs = [0x01#8] ∨ xs = [0x02#8] := by
  obtain ⟨i, hi, ha⟩ := replyFrame_eq_true h
  have hb := eq_encode_of_decode hi
  cases i with
  | error c =>
    obtain rfl : xs = [c] := by simpa using hb
    obtain ⟨e, he⟩ := Option.isSome_iff_exists.mp ha
    rw [errorOfByte_eq_some_iff] at he
    cases e with
    | invalidPin => exact .inl (by rw [he, errorByte_invalidPin])
    | invalidPacket => exact .inr (by rw [he, errorByte_invalidPacket])
  | _ => simp at hb

/-- Every ERROR the block may send carries code 01 or 02, under every policy (R170). -/
theorem error_code_of_lawful {policy : RequestPolicy} {xs : List Byte} (h : lawful policy (0xFF#8 :: xs) = true) :
    xs = [0x01#8] ∨ xs = [0x02#8] := by
  cases policy with
  | errorInvalidPacket => exact error_code_of_sendable h
  | extension =>
    obtain h | h := Bool.or_eq_true_iff.mp h
    · exact error_code_of_sendable h
    · exact error_code_of_replyFrame h

/-! ## The step, read forwards -/

section Forwards
variable {s : State}

/-- Hardware reset wins over everything else (R191). -/
theorem step_of_rst (hr : s.latch.ports.rst = true) : step s = .next s.latch.hardwareReset := by
  simp only [step, cycle, hr, if_true]

/-- The block waits: in IDLE for a frame, in ANNOUNCE and BUSY for the transport (R33). -/
theorem step_of_wait (hr : s.latch.ports.rst = false) (hi : s.phase = .idle → s.latch.ports.rxFrame = none)
    (ht : s.phase ≠ .idle → s.latch.ports.txReady = false) : step s = .next s.latch := by
  cases hp : s.phase with
  | idle => simp [step, cycle, hr, hp, hi hp]
  | announce => simp [step, cycle, hr, hp, ht (by simp [hp])]
  | busy => simp [step, cycle, hr, hp, ht (by simp [hp])]

/-- The transport takes the announcement (R130). -/
theorem step_of_announce {f : Frame} (hr : s.latch.ports.rst = false) (hp : s.phase = .announce)
    (ht : s.latch.ports.txReady = true) (hf : offered s = .ok f) : step s = .next (s.latch.announceTaken f) := by
  have hf' : offered s.latch = .ok f := by rw [offered_latch, hf]
  simp [step, cycle, hr, hp, ht, handOver_of_offered hf']

/-- The transport takes the response (R33, R187). -/
theorem step_of_busy {f : Frame} (hr : s.latch.ports.rst = false) (hp : s.phase = .busy)
    (ht : s.latch.ports.txReady = true) (hf : offered s = .ok f) : step s = .next (s.latch.responseTaken f) := by
  have hf' : offered s.latch = .ok f := by rw [offered_latch, hf]
  simp [step, cycle, hr, hp, ht, handOver_of_offered hf']

/-- A frame is accepted and the exchange runs in the same step (R110). -/
theorem step_of_frame {b : Frame} (hr : s.latch.ports.rst = false) (hp : s.phase = .idle)
    (hb : s.latch.ports.rxFrame = some b) : step s = exchange (s.latch.accept b) := by
  simp [step, cycle, hr, hp, hb]

end Forwards

/-- A frame that does not decode is answered INVALID_PACKET (R110, D21). -/
theorem exchange_accept_of_rejected {b : Frame} {r : DecodeReject} (h : received b = .error r) (s : State) :
    exchange (s.accept b) = .next ((s.accept b).putFrame [0xFF#8, 0x02#8]) := by
  rw [exchange_accept, show decodeBuffer (min b.length 101) (b.take 100) = .error r from h]

/-- A frame that decodes has its packet executed (R110). -/
theorem exchange_accept_of_received {b : Frame} {i : Instr} (h : received b = .ok i) (s : State) :
    exchange (s.accept b) = exec i (s.accept b) := by
  rw [exchange_accept, show decodeBuffer (min b.length 101) (b.take 100) = .ok i from h]

/-- An exchange always answers (R188). -/
theorem exists_exchange_accept (s : State) (b : Frame) : ∃ t, exchange (s.accept b) = .next t := by
  cases hd : received b with
  | error r => exact ⟨_, exchange_accept_of_rejected hd s⟩
  | ok i =>
    obtain ⟨t, ht, -⟩ := exec_effect i (s.accept b)
    exact ⟨t, (exchange_accept_of_received hd s).trans ht⟩

/-! ## The pin table after InitTable -/

/-- InitTable locks exactly the pins of LOCKED_PINS (R211). -/
theorem initTable_locked_iff (locked : BitVec numPins) (j : Fin numPins) :
    (initTable locked)[j] = .locked ↔ locked.getLsbD j.val = true := by
  rw [Fin.getElem_fin, getElem_initTable]
  cases locked.getLsbD j.val <;> simp

/-! ## What an instruction writes -/

section EffectLaws
variable {i : Instr} {s t : State}

/-- An instruction writes the table, the LED, the record of samples and one response of 1 to 100 bytes, and nothing
else. -/
theorem Effect.eq_putFrame (h : Effect i s t) :
    ∃ (table : PinTable) (led : Bool) (sampled : List Nat) (f : Frame), 1 ≤ f.length ∧ f.length ≤ 100 ∧
      t = ({ s with pin := table, led := led, sampled := sampled } : State).putFrame f := by
  cases h with
  | reply pl _ _ hr =>
    obtain ⟨h1, hn⟩ := length_of_isPacket (isPacket_of_replyFrame hr)
    exact ⟨s.pin, s.led, s.sampled, _, h1, hn, rfl⟩
  | _ => exact ⟨_, _, _, _, by simp, by simp, rfl⟩

/-- A slot is written only by RESET and by a successful PIN_INIT that names it, which is acknowledged (R23). -/
theorem Effect.slot_cases (h : Effect i s t) (j : Nat) (hj : j < numPins) :
    t.pin[j] = s.pin[j] ∨ (i = .reset ∧ t.pin = initTable s.params.lockedPins) ∨
      ∃ (p d : Byte) (st : PinState), p.toNat = j ∧ i = .pinInit p d ∧ dirState d = some st ∧ s.pin[j] ≠ .locked ∧
        t.pin[j] = st ∧ offered t = .ok [0x0F#8, p, d] := by
  cases h with
  | table hi => exact .inr (.inl ⟨hi, rfl⟩)
  | init p d st hp hi hd hl =>
    by_cases hpj : p.toNat = j
    · subst hpj
      exact .inr (.inr ⟨p, d, st, rfl, hi, hd, hl, by simp, offered_putFrame _ _⟩)
    · exact .inl (by simp [Vector.getElem_set_ne, hpj])
  | _ => exact .inl rfl

/-- The LED is written only by LED_HIGH and LED_LOW (R30, D9). -/
theorem Effect.led_cases (h : Effect i s t) :
    t.led = s.led ∨ (i = .ledHigh ∧ t.led = true) ∨ (i = .ledLow ∧ t.led = false) := by
  cases h with
  | ledOn hi => exact .inr (.inl ⟨hi, rfl⟩)
  | ledOff hi => exact .inr (.inr ⟨hi, rfl⟩)
  | _ => exact .inl rfl

/-- A pin is sampled only by DIGITAL_READ, and once (R58). -/
theorem Effect.sampled_cases (h : Effect i s t) :
    t.sampled = s.sampled ∨ ∃ p, i = .digitalRead p ∧ t.sampled = s.sampled ++ [p.toNat] := by
  cases h with
  | read p _ hi _ => exact .inr ⟨p, hi, rfl⟩
  | _ => exact .inl rfl

/-- R26 under an instruction: RESET locks exactly LOCKED_PINS, and PIN_INIT neither takes LOCKED away nor gives it. -/
theorem Effect.lockedConstant (h : Effect i s t) (hs : LockedConstant s) : LockedConstant t := by
  have hparams : t.params = s.params := by
    obtain ⟨_, _, _, _, -, -, rfl⟩ := h.eq_putFrame; rfl
  intro j
  rw [hparams]
  obtain hsame | ⟨-, htab⟩ | ⟨p, d, st, -, -, hd, hl, ht, -⟩ := h.slot_cases j.val j.isLt
  · exact (show t.pin[j] = s.pin[j] from hsame) ▸ hs j
  · rw [htab]; exact initTable_locked_iff _ j
  · have hst : st ≠ .locked := by rcases dirState_eq_some hd with ⟨-, rfl⟩ | ⟨-, rfl⟩ <;> simp
    exact iff_of_false (fun hj => hst (ht.symm.trans hj)) (fun hj => hl ((hs j).mpr hj))

@[simp] theorem txFrame_putFrame (u : State) (f : Frame) : txFrame (u.putFrame f) = f :=
  Memory.map_snd_ofFrame f

@[simp] theorem txFrame_latch (u : State) : txFrame u.latch = txFrame u := by
  rw [txFrame, State.latch_tx, txFrame]

/-- The response an instruction builds is one the block may send (R118). -/
theorem Effect.lawful (h : Effect i s t) : lawful s.params.requestPolicy (txFrame t) = true := by
  cases h with
  | error e => exact lawful_of_sendable _ (by cases e <;> rfl)
  | init p d st hp _ hd _ =>
    have hp' : p.toNat < 70 := hp
    obtain ⟨rfl, -⟩ | ⟨rfl, -⟩ := dirState_eq_some hd <;> exact lawful_of_sendable _ (by simp [sendable, hp'])
  | read p hp _ _ =>
    have hp' : p.toNat < 70 := hp
    cases hv : s.ports.pinLevel.getLsbD p.toNat <;> exact lawful_of_sendable _ (by simp [sendable, hp'])
  | reply pl _ hpol hr => simp [Machine.lawful, hpol, hr]
  | _ => exact lawful_of_sendable _ rfl

end EffectLaws

/-- A step that accepts a frame answers the effect of its packet on the state in which the frame is in RX, or the error
effect where the frame does not decode. -/
theorem effect_of_step_of_frame {s t : State} {b : Frame} (hr : s.latch.ports.rst = false) (hp : s.phase = .idle)
    (hb : s.latch.ports.rxFrame = some b) (h : step s = .next t) : ∃ i, Effect i (s.latch.accept b) t := by
  rw [step_of_frame hr hp hb] at h
  cases hd : received b with
  | error r =>
    rw [exchange_accept_of_rejected hd] at h
    cases h
    exact ⟨.ping, .error .invalidPacket⟩
  | ok i => exact ⟨i, effect_of_exec ((exchange_accept_of_received hd _).symm.trans h)⟩

/-! ## The invariant -/

section Invariant
variable {s t : State}

/-- A transmit buffer that holds one frame offers it (R35, R216). -/
theorem offered_of_txFits (h : TxFits s) : offered s = .ok (txFrame s) := by
  obtain ⟨-, -, hmap⟩ := h
  refine offered_of_tx (Memory.eq_ofFrame hmap) ?_
  simpa [txFrame] using (congrArg List.length hmap).symm

/-- Hardware reset restores the invariant, whatever the state, but for the frames already sent. -/
theorem inv_hardwareReset (hsent : SentLawfully s) : Inv s.hardwareReset where
  locked := initTable_locked_iff s.params.lockedPins
  startup := by simp [StartupMatchesPhase]
  rxFits := by simp [RxFits]
  txFits := by simp [TxFits]
  offers := rfl
  sent := hsent

/-- The invariant does not speak of the ports. -/
theorem inv_latch (h : Inv s) : Inv s.latch := by
  unfold State.latch
  split <;> exact ⟨h.locked, h.startup, h.rxFits, h.txFits, h.offers, h.sent⟩

/-- One more lawful frame sent. -/
theorem sentLawfully_append {f : Frame} (h : SentLawfully s) (hf : lawful s.params.requestPolicy f = true) :
    ∀ g ∈ s.sent ++ [f], lawful s.params.requestPolicy g = true := by
  intro g hg
  obtain hg | hg := List.mem_append.mp hg
  · exact h g hg
  · rw [List.mem_singleton.mp hg]; exact hf

/-- The frame offered in ANNOUNCE or BUSY is one the block may send. -/
theorem lawful_of_offered {f : Frame} (h : Inv s) (hp : s.phase ≠ .idle) (hf : offered s = .ok f) :
    lawful s.params.requestPolicy f = true := by
  rw [offered_of_txFits h.txFits] at hf
  cases hf
  have ho := h.offers
  unfold OffersLawfully at ho
  cases hph : s.phase with
  | announce =>
    rw [hph] at ho
    rw [show txFrame s = [0xC1#8] from ho]
    exact lawful_of_sendable _ rfl
  | idle => exact absurd hph hp
  | busy => rw [hph] at ho; exact ho

/-- Handing over the announcement keeps the invariant (R31, R130). -/
theorem inv_announceTaken {f : Frame} (h : Inv s) (hf : lawful s.params.requestPolicy f = true) :
    Inv (s.announceTaken f) where
  locked := h.locked
  startup := by simp [StartupMatchesPhase]
  rxFits := h.rxFits
  txFits := h.txFits
  offers := trivial
  sent := sentLawfully_append h.sent hf

/-- Handing over a response keeps the invariant: STARTUP_PENDING is 0 in BUSY already. -/
theorem inv_responseTaken {f : Frame} (h : Inv s) (hp : s.phase = .busy)
    (hf : lawful s.params.requestPolicy f = true) : Inv (s.responseTaken f) where
  locked := h.locked
  startup := by simpa [StartupMatchesPhase, hp] using h.startup
  rxFits := h.rxFits
  txFits := h.txFits
  offers := trivial
  sent := sentLawfully_append h.sent hf

/-- An exchange keeps the invariant: it fills both buffers with one frame each, and its response is lawful. -/
theorem inv_of_effect_accept {i : Instr} {b : Frame} (h : Inv s) (hp : s.phase = .idle)
    (he : Effect i (s.accept b) t) : Inv t := by
  have hlocked := he.lockedConstant h.locked
  have hlawful := he.lawful
  obtain ⟨table, led, sampled, f, h1, hn, rfl⟩ := he.eq_putFrame
  exact {
    locked := hlocked
    startup := by simpa [StartupMatchesPhase, hp] using h.startup
    rxFits := by
      have hmin : min 100 b.length = min (min b.length 101) 100 := by omega
      simp [RxFits, hmin]
    txFits := ⟨h1, hn, by simp⟩
    offers := hlawful
    sent := h.sent }

/-- A state that meets the invariant takes a step: the frame offered can be read, and an exchange always answers. -/
theorem exists_step_of_inv (h : Inv s) : ∃ t, step s = .next t := by
  have hf := offered_of_txFits h.txFits
  cases hr : s.latch.ports.rst with
  | true => exact ⟨_, step_of_rst hr⟩
  | false =>
    cases hp : s.phase with
    | idle =>
      cases hb : s.latch.ports.rxFrame with
      | none => exact ⟨_, step_of_wait hr (fun _ => hb) (fun hn => absurd hp hn)⟩
      | some b => rw [step_of_frame hr hp hb]; exact exists_exchange_accept _ b
    | announce =>
      cases ht : s.latch.ports.txReady with
      | true => exact ⟨_, step_of_announce hr hp ht hf⟩
      | false => exact ⟨_, step_of_wait hr (fun hi => by simp [hp] at hi) (fun _ => ht)⟩
    | busy =>
      cases ht : s.latch.ports.txReady with
      | true => exact ⟨_, step_of_busy hr hp ht hf⟩
      | false => exact ⟨_, step_of_wait hr (fun hi => by simp [hp] at hi) (fun _ => ht)⟩

end Invariant

/-! ## The statements: the invariant and runs -/

/-- Settles O50: one case per kind of step, each with its own lemma about the invariant. -/
theorem stepKeepsInvariant : Obligations.StepKeepsInvariant := by
  intro s t hs h
  have hl : Inv s.latch := inv_latch hs
  have hsent (f : Frame) (hp : s.phase ≠ .idle) (hf : offered s = .ok f) :
      lawful s.latch.params.requestPolicy f = true := by
    simpa using lawful_of_offered hs hp hf
  cases steps_of_step h with
  | reset _ => exact inv_hardwareReset hl.sent
  | wait _ _ _ => exact hl
  | announced f _ hp _ hf => exact inv_announceTaken hl (hsent f (by simp [hp]) hf)
  | answered f _ hp _ hf => exact inv_responseTaken hl (by simp [hp]) (hsent f (by simp [hp]) hf)
  | rejected b r _ hp _ _ => exact inv_of_effect_accept (i := .ping) hl (by simp [hp]) (.error .invalidPacket)
  | executed b i _ hp _ _ he => exact inv_of_effect_accept hl (by simp [hp]) he

/-- Settles O51: hardware reset gives the invariant, and nothing has been sent. -/
theorem invariantHoldsAfterReset : Obligations.InvariantHoldsAfterReset :=
  fun _ _ => inv_hardwareReset (fun _ hf => absurd hf List.not_mem_nil)

/-- The invariant holds of every state of a run. -/
theorem Reachable.inv {s : State} (h : Reachable s) : Inv s := by
  induction h with
  | boot p ins => exact invariantHoldsAfterReset p ins
  | step _ ht ih => exact stepKeepsInvariant _ _ ih ht

/-- Settles O53: each part is read off the invariant, which holds of every reachable state. -/
theorem runsAreSafe : Obligations.RunsAreSafe := by
  intro s hs
  have hinv := hs.inv
  refine ⟨exists_step_of_inv hinv, hinv.locked, fun xs hxs => error_code_of_lawful (hinv.sent _ hxs), ?_⟩
  intro hpol f hf
  simpa [lawful, hpol] using hinv.sent f hf

/-! ## The statements: instructions and steps -/

/-- Settles O22: the sequencer and the surroundings by the shape of an instruction's effect, the table, the LED and the
samples by their own case lemmas. -/
theorem everyInstructionFrame : Obligations.EveryInstructionFrame := by
  intro i s t h
  have he := effect_of_exec h
  have hslot := he.slot_cases
  have hled := he.led_cases
  have hsampled := he.sampled_cases
  obtain ⟨_, _, _, _, -, -, rfl⟩ := he.eq_putFrame
  refine ⟨rfl, rfl, rfl, rfl, rfl, rfl, rfl, fun _ => rfl, ?_, ?_, ?_⟩
  · intro j hj hreset hinit
    obtain hsame | ⟨hi, -⟩ | ⟨p, d, _, hpj, hi, -⟩ := hslot j hj
    · exact hsame
    · exact absurd hi hreset
    · exact absurd hi (hinit p d hpj)
  · intro hhigh hlow
    obtain hsame | ⟨hi, -⟩ | ⟨hi, -⟩ := hled
    · exact hsame
    · exact absurd hi hhigh
    · exact absurd hi hlow
  · intro hread
    obtain hsame | ⟨p, hi, -⟩ := hsampled
    · exact hsame
    · exact absurd hi (hread p)

/-- Settles O23: every instruction ends by putting one frame of 1 to 100 bytes into TX. -/
theorem transmitBufferHoldsOneFrame : Obligations.TransmitBufferHoldsOneFrame := by
  intro i s t h
  obtain ⟨_, _, _, f, h1, hn, rfl⟩ := (effect_of_exec h).eq_putFrame
  exact ⟨h1, hn, f, rfl, Memory.read_ofFrame f, offered_putFrame _ f⟩

/-- Settles O29: the exchange does not write RX, so it holds what accepting the frame put there. -/
theorem receiveBufferHoldsFrame : Obligations.ReceiveBufferHoldsFrame := by
  intro s t p rest b hp hin hr hb h
  have hl := State.latch_cons hin
  obtain ⟨i, he⟩ := effect_of_step_of_frame (b := b) (by simp [hl, hr]) hp (by simp [hl, hb]) h
  obtain ⟨_, _, _, _, -, -, rfl⟩ := he.eq_putFrame
  refine ⟨fun k => ?_, fun hle => ?_, fun hgt => ?_⟩
  · show Memory.read (Memory.ofFrame (b.take 100)) k = _
    rw [Memory.read_ofFrame, List.getElem?_take]
  · show min b.length 101 = b.length
    omega
  · show min b.length 101 = 101
    omega

/-- Settles O35: only the two steps in which the transport takes a frame write the record of frames sent, and only they
lead to IDLE from another phase. -/
theorem oneFrameLeavesAtATime : Obligations.OneFrameLeavesAtATime := by
  intro s t h
  cases steps_of_step h with
  | reset _ => exact ⟨.inl (by simp), by simp⟩
  | wait _ _ _ => exact ⟨.inl (by simp), fun hp ht => absurd (by simpa using ht) hp⟩
  | announced f hr hp ht hf =>
    exact ⟨.inr ⟨by simp [hp], rfl, hr, ht, f, hf, by simp⟩, by simp⟩
  | answered f hr hp ht hf =>
    exact ⟨.inr ⟨by simp [hp], rfl, hr, ht, f, hf, by simp⟩, by simp⟩
  | rejected b r _ hp _ _ => exact ⟨.inl (by simp), fun hn => absurd hp hn⟩
  | executed b i _ hp _ _ he =>
    obtain ⟨_, _, _, _, -, -, rfl⟩ := he.eq_putFrame
    exact ⟨.inl (by simp), fun hn => absurd hp hn⟩

/-- Settles O36: outside hardware reset and the execution of a packet no step writes a slot, and a packet that decoded
is the frame at the port. -/
theorem onlyInitAndResetsChangeSlots : Obligations.OnlyInitAndResetsChangeSlots := by
  intro s t j hj h hne
  cases steps_of_step h with
  | reset hr => exact .inl hr
  | executed b i _ hp hb hd he =>
    have hfr := rxFrame_eq_encode hb hd
    obtain hsame | ⟨rfl, -⟩ | ⟨p, d, st, hpj, rfl, hdir, hl, ht, hoff⟩ := he.slot_cases j hj
    · exact absurd (by simpa using hsame) hne
    · exact .inr (.inl ⟨hp, hfr⟩)
    · refine .inr (.inr ⟨hp, by simpa using hl, p, d, hpj, ?_, hfr, hoff, ?_⟩)
      · exact (dirState_eq_some hdir).imp And.left And.left
      · rw [ht]
        obtain ⟨rfl, rfl⟩ | ⟨rfl, rfl⟩ := dirState_eq_some hdir <;> simp
  | _ => simp at hne

/-- Settles O37: outside hardware reset and the execution of a packet no step writes the LED, and a packet that decoded
is the frame at the port. -/
theorem onlyLedCommandsAndResetChangeLed : Obligations.OnlyLedCommandsAndResetChangeLed := by
  intro s t h hne
  cases steps_of_step h with
  | reset hr => exact .inl ⟨hr, rfl⟩
  | executed b i _ hp hb hd he =>
    have hfr := rxFrame_eq_encode hb hd
    obtain hsame | ⟨rfl, ht⟩ | ⟨rfl, ht⟩ := he.led_cases
    · exact absurd (by simpa using hsame) hne
    · exact .inr (.inl ⟨hp, hfr, ht⟩)
    · exact .inr (.inr ⟨hp, hfr, ht⟩)
  | _ => simp at hne

/-- Settles O45: no kind of step writes the parameters. -/
theorem parametersNeverChange : Obligations.ParametersNeverChange := by
  intro s t h
  cases steps_of_step h with
  | executed b i _ _ _ _ he =>
    obtain ⟨_, _, _, _, -, -, rfl⟩ := he.eq_putFrame
    simp
  | _ => simp

/-- Settles O33: the case of BUSY, with the transport not ready and ready. -/
theorem responseHeldUntilTaken : Obligations.ResponseHeldUntilTaken := by
  intro s p rest f hp hin hr hf
  have hl := State.latch_cons hin
  refine ⟨fun ht => ?_, fun ht => ?_⟩
  · rw [step_of_wait (by simp [hl, hr]) (by simp [hp]) (by simp [hl, ht]), hl]
  · rw [step_of_busy (by simp [hl, hr]) hp (by simp [hl, ht]) hf, hl]; rfl

/-- Settles O34: the case of IDLE with no frame at the port. -/
theorem idleWaitsForFrame : Obligations.IdleWaitsForFrame := by
  intro s p rest hp hin hr hb
  have hl := State.latch_cons hin
  rw [step_of_wait (by simp [hl, hr]) (by simp [hl, hb]) (fun hn => absurd hp hn), hl]

/-! ## The statements: operand codes and reset values -/

/-- Settles O7: each operand reader inverts its writer, and a direction is one of the two legal ones. -/
theorem operandCodes : Obligations.OperandCodes := by
  refine ⟨fun b st => ?_, fun st => stateOfByte_eq_some_iff.mpr rfl, fun b st => ?_, fun b v => ?_, fun b e => ?_,
    fun v => rfl, rfl, rfl⟩
  · rw [stateOfByte_eq_some_iff]
    cases st <;> simp [stateByte, stateCode]
  · rw [dirState_eq_some_iff]
    simp
  · rw [levelOfByte_eq_some_iff]
    cases v <;> simp
  · rw [errorOfByte_eq_some_iff]
    cases e <;> simp

/-- Settles O31: the reset values field by field, with the table of `initTable`. -/
theorem bootStateHasResetValues : Obligations.BootStateHasResetValues := by
  refine ⟨fun p ins => ⟨fun i h => ?_, rfl, rfl, rfl, offered_of_tx (State.boot_tx p ins) rfl, rfl⟩, rfl⟩
  rw [State.boot_pin]
  exact getElem_initTable p.lockedPins i h

end Machine
end Sys2Proof
end

section
/-! The memory family: the two store operations of the pin table, what an error and a sample say of the exchange that
made them, runs of whole exchanges, and the statements about them. -/

namespace Sys2Proof.Machine

/-! ## What the response and the record of samples say of an instruction -/

section EffectReadBack
variable {i : Instr} {s t : State}

/-- An instruction that answers an ERROR frame has written nothing but the response (R57, R184). -/
theorem Effect.unchanged_of_error {xs : List Byte} (h : Effect i s t) (hf : offered t = .ok (0xFF#8 :: xs)) :
    t.pin = s.pin ∧ t.led = s.led ∧ t.sampled = s.sampled := by
  cases h with
  | pong _ | error _ | reply _ _ _ _ => exact ⟨rfl, rfl, rfl⟩
  | table _ | ledOn _ | ledOff _ | init _ _ _ _ _ _ _ | read _ _ _ _ => simp at hf

/-- An instruction that has sampled a pin is a DIGITAL_READ that passed both checks, and it answers the sample (R58). -/
theorem Effect.read_of_sampled_ne (h : Effect i s t) (hne : t.sampled ≠ s.sampled) :
    ∃ (p : Byte) (hp : p.toNat < numPins), i = .digitalRead p ∧ s.pin[p.toNat] = .digitalIn ∧
      t = (sample p s).2.putFrame [0xEF#8, p, levelByte (s.ports.pinLevel.getLsbD p.toNat)] := by
  cases h with
  | read p hp hi hin => exact ⟨p, hp, hi, hin, rfl⟩
  | _ => exact absurd rfl hne

end EffectReadBack

/-! ## The two pin commands where they succeed -/

/-- PIN_INIT with a legal direction on a slot that is not LOCKED (R141). -/
theorem exec_pinInit_of_unlocked {s : State} {p d : Byte} {st : PinState} (hp : p.toNat < numPins)
    (hd : dirState d = some st) (hl : s.pin[p.toNat] ≠ .locked) :
    exec (.pinInit p d) s = .next (({ s with pin := s.pin.set p.toNat st } : State).putFrame [0x0F#8, p, d]) := by
  have hcode : stateByte st = d := by
    obtain ⟨rfl, rfl⟩ | ⟨rfl, rfl⟩ := dirState_eq_some hd <;> rfl
  simp only [exec, execPinInit, hd, pinTableGet_of_lt hp, isLocked_eq_true, if_neg hl, pinTableSet_of_lt st hp, hcode]
  exact respond_of_length (by simp) (by simp [packetMaxSize]) _

/-- DIGITAL_READ of a slot that is DIGITAL_IN (R145). -/
theorem exec_digitalRead_of_digitalIn {s : State} {p : Byte} (hp : p.toNat < numPins)
    (hin : s.pin[p.toNat] = .digitalIn) :
    exec (.digitalRead p) s =
      .next ((sample p s).2.putFrame [0xEF#8, p, levelByte (s.ports.pinLevel.getLsbD p.toNat)]) := by
  simp only [exec, execDigitalRead, pinTableGet_of_lt hp, isDigitalIn_eq_true.mpr hin, if_true]
  exact respond_of_length (by simp) (by simp [packetMaxSize]) _

/-- The frame of a PIN_INIT is received as that packet (R111). -/
theorem received_pinInit (p d : Byte) : received [0xF0#8, p, d] = .ok (.pinInit p d) := rfl

/-- The frame of a DIGITAL_READ is received as that packet (R111). -/
theorem received_digitalRead (p : Byte) : received [0x10#8, p] = .ok (.digitalRead p) := rfl

/-! ## One exchange, from the step that accepts the frame to the hand-over of its response -/

/-- The next step of `s` accepts a frame and answers it with `f`: it leads to `t`, where `f` is offered, nothing has been
sent, and `rest` is to come at the ports. -/
structure AcceptsWith (s : State) (f : Frame) (rest : List Inputs) (t : State) : Prop where
  next : step s = .next t
  busy : t.phase = .busy
  inputs : t.inputs = rest
  sent : t.sent = s.sent
  offers : offered t = .ok f

/-- The state after the transport has taken the response `f` of `t` in a step with the port values `q`, with `rest` to
come. -/
def State.takenUnder (t : State) (q : Inputs) (rest : List Inputs) (f : Frame) : State :=
  ({ t with ports := q, inputs := rest } : State).responseTaken f

@[simp] theorem State.takenUnder_sent (t : State) (q : Inputs) (rest : List Inputs) (f : Frame) :
    (t.takenUnder q rest f).sent = t.sent ++ [f] := rfl
@[simp] theorem State.takenUnder_pin (t : State) (q : Inputs) (rest : List Inputs) (f : Frame) :
    (t.takenUnder q rest f).pin = t.pin := rfl

section Exchanges
variable {s t : State} {p q : Inputs} {rest stalls : List Inputs} {b f : Frame} {i : Instr}

/-- A frame that decodes is accepted from IDLE and answered with the response of its packet (R110). -/
theorem acceptsWith_of_exec (hp : s.phase = .idle) (hin : s.inputs = p :: rest) (hr : p.rst = false)
    (hb : p.rxFrame = some b) (hd : received b = .ok i)
    (ht : exec i (({ s with ports := p, inputs := rest } : State).accept b) = .next t) (hf : offered t = .ok f) :
    AcceptsWith s f rest t := by
  have hl := State.latch_cons hin
  have hstep : step s = .next t := by
    rw [step_of_frame (b := b) (by simp [hl, hr]) hp (by simp [hl, hb]), exchange_accept_of_received hd, hl, ht]
  obtain ⟨_, _, _, _, -, -, rfl⟩ := (effect_of_exec ht).eq_putFrame
  exact ⟨hstep, rfl, rfl, rfl, hf⟩

/-- A PIN_INIT for input of a pin that is not LOCKED is acknowledged, and the slot is DIGITAL_IN (R141). -/
theorem exists_acceptsWith_pinInit_in {n : Byte} (hn : n.toNat < numPins) (hl : s.pin[n.toNat] ≠ .locked)
    (hp : s.phase = .idle) (hin : s.inputs = p :: rest) (hr : p.rst = false)
    (hb : p.rxFrame = some [0xF0#8, n, 0x02#8]) :
    ∃ t, AcceptsWith s [0x0F#8, n, 0x02#8] rest t ∧ t.pin[n.toNat] = .digitalIn :=
  ⟨_, acceptsWith_of_exec hp hin hr hb (received_pinInit n _) (exec_pinInit_of_unlocked hn dirState_in hl)
    (offered_putFrame _ _), by simp⟩

/-- A DIGITAL_READ of a pin that is DIGITAL_IN is answered with the level at the port, and the table stays as it is
(R145, log 4). -/
theorem exists_acceptsWith_digitalRead {n : Byte} {v : Bool} (hn : n.toNat < numPins)
    (hd : s.pin[n.toNat] = .digitalIn) (hp : s.phase = .idle) (hin : s.inputs = p :: rest) (hr : p.rst = false)
    (hb : p.rxFrame = some [0x10#8, n]) (hv : p.pinLevel.getLsbD n.toNat = v) :
    ∃ t, AcceptsWith s [0xEF#8, n, levelByte v] rest t ∧ t.pin = s.pin := by
  subst hv
  exact ⟨_, acceptsWith_of_exec hp hin hr hb (received_digitalRead n) (exec_digitalRead_of_digitalIn hn hd)
    (offered_putFrame _ _), rfl⟩

/-- In BUSY the transport takes the response in the step in which it is ready (R187). -/
theorem step_takes_response (hp : s.phase = .busy) (hf : offered s = .ok f) (hin : s.inputs = q :: rest)
    (hr : q.rst = false) (ht : q.txReady = true) : step s = .next (s.takenUnder q rest f) := by
  have hl := State.latch_cons hin
  rw [step_of_busy (by simp [hl, hr]) hp (by simp [hl, ht]) hf, hl]
  rfl

/-- In BUSY the response stays offered through any number of steps in which the transport is not ready, and the step in
which it is ready takes it (R187, R219). -/
theorem run_takes_response (hp : s.phase = .busy) (hf : offered s = .ok f) (hin : s.inputs = stalls ++ q :: rest)
    (hs : ∀ x ∈ stalls, x.rst = false ∧ x.txReady = false) (hr : q.rst = false) (ht : q.txReady = true) :
    Host.Core.run Sys2Proof.core (stalls.length + 1) s = .next (s.takenUnder q rest f) := by
  induction stalls generalizing s with
  | nil => exact run_succ (step_takes_response hp hf hin hr ht) 0
  | cons x xs ih =>
    have hl := State.latch_cons hin
    obtain ⟨⟨hxr, hxt⟩, hxs⟩ := List.forall_mem_cons.mp hs
    rw [List.length_cons, run_succ (step_of_wait (by simp [hl, hxr]) (by simp [hp]) (by simp [hl, hxt])), hl]
    exact ih hp hf rfl hxs

/-- A whole exchange: the step that accepts the frame, the stalls, and the hand-over of the response (R119). -/
theorem AcceptsWith.run (h : AcceptsWith s f (stalls ++ q :: rest) t)
    (hs : ∀ x ∈ stalls, x.rst = false ∧ x.txReady = false) (hr : q.rst = false) (ht : q.txReady = true) :
    Host.Core.run Sys2Proof.core (stalls.length + 2) s = .next (t.takenUnder q rest f) := by
  rw [run_succ h.next]
  exact run_takes_response h.busy h.offers h.inputs hs hr ht

/-- A whole exchange with no stall, at the head of a longer run. -/
theorem AcceptsWith.run_add (h : AcceptsWith s f (.quiet :: rest) t) (n : Nat) :
    Host.Core.run Sys2Proof.core (n + 2) s = Host.Core.run Sys2Proof.core n (t.takenUnder .quiet rest f) := by
  rw [run_succ h.next, run_succ (step_takes_response h.busy h.offers h.inputs rfl rfl)]

end Exchanges

/-! ## The statements: the pin table -/

/-- Settles O8: the two cases of the index comparison. -/
theorem pinTableGetReadsOrFails : Obligations.PinTableGetReadsOrFails :=
  fun _ _ => ⟨fun h => pinTableGet_of_lt h, fun h => pinTableGet_of_ge h⟩

/-- Settles O9: the two cases of the index comparison, and what a vector reads after one slot is set. -/
theorem pinTableSetWritesOneSlot : Obligations.PinTableSetWritesOneSlot := by
  refine fun t i st => ⟨fun h => ⟨_, pinTableSet_of_lt st h, fun j hj => ?_⟩, fun h => pinTableSet_of_ge st h⟩
  rw [Vector.getElem_set]
  exact if_congr eq_comm rfl rfl

/-! ## The statements: errors and samples -/

/-- Settles O24: accepting the frame writes none of the three, and neither does an effect that answers an ERROR. -/
theorem errorResponseWritesNothing : Obligations.ErrorResponseWritesNothing := by
  intro s t p rest b xs hp hin hr hb h hf
  have hl := State.latch_cons hin
  obtain ⟨i, he⟩ := effect_of_step_of_frame (b := b) (by simp [hl, hr]) hp (by simp [hl, hb]) h
  simpa using he.unchanged_of_error hf

/-- Settles O25: a changed record of samples leaves only the successful DIGITAL_READ. -/
theorem sampleOnlyOnSuccessfulRead : Obligations.SampleOnlyOnSuccessfulRead := by
  intro i s t h hne
  obtain ⟨p, hp, hi, hin, rfl⟩ := (effect_of_exec h).read_of_sampled_ne hne
  exact ⟨p, hp, hi, hin, rfl, rfl, rfl, offered_putFrame _ _⟩

/-! ## The statements: reading a pin after its initialisation -/

/-- Settles O39: the exchange of the PIN_INIT, stalls included, then the step that accepts the DIGITAL_READ. -/
theorem initThenReadAnswersLevel : Obligations.InitThenReadAnswersLevel := by
  intro s i p q r stalls rest h hl hp hin hpr hpb hs hqr hqt hrr hrb
  obtain ⟨t, ht, hpin⟩ := exists_acceptsWith_pinInit_in h hl hp hin hpr hpb
  obtain ⟨v, hv, -⟩ := exists_acceptsWith_digitalRead
    (s := t.takenUnder q (r :: rest) [0x0F#8, i, 0x02#8]) h hpin rfl rfl hrr hrb rfl
  exact ⟨t, _, v, ht.next, ht.offers, ht.run hs hqr hqt, rfl, congrArg (· ++ _) ht.sent, hv.next, hv.busy, hv.sent,
    hv.inputs, hv.offers⟩

/-! ## The statements: two reads with different answers -/

/-- No reset, the transport ready, the frame `b` at the port, and the physical pins at `level`. -/
def Inputs.bringing (b : Frame) (level : BitVec numPins) : Inputs := ⟨false, some b, true, level⟩

/-- The port values of a run in which pin `i` is initialised for input and read twice, first with all pins at level 1 and
then with all at 0; each frame offered is taken in a quiet step. -/
def differingReads (i : Byte) : List Inputs :=
  [.quiet, .bringing [0xF0#8, i, 0x02#8] 0, .quiet, .bringing [0x10#8, i] (BitVec.allOnes numPins), .quiet,
    .bringing [0x10#8, i] 0, .quiet]

/-- From reset with a quiet step to come, the first step hands over the announcement (R130). -/
theorem step_boot_quiet (p : Params) (rest : List Inputs) :
    step (State.boot p (.quiet :: rest)) = .next ((State.boot p rest).announceTaken [0xC1#8]) :=
  step_of_announce rfl rfl rfl (offered_of_tx (State.boot_tx p _) rfl)

/-- InitTable leaves a pin that LOCKED_PINS does not name unlocked (R211). -/
theorem initTable_ne_locked {locked : BitVec numPins} {j : Nat} (hj : j < numPins) (h : locked.getLsbD j = false) :
    (initTable locked)[j] ≠ .locked := by
  rw [getElem_initTable, h]
  decide

/-- Settles O47 with the run `differingReads`: the announcement, then three exchanges. -/
theorem twoReadsMayDiffer : Obligations.TwoReadsMayDiffer := by
  intro p i hi hlock
  have hhigh : (BitVec.allOnes numPins).getLsbD i.toNat = true := by simp [hi]
  have hlow : (0 : BitVec numPins).getLsbD i.toNat = false := by simp
  obtain ⟨t₁, h₁, hpin₁⟩ := exists_acceptsWith_pinInit_in
    (s := (State.boot p (differingReads i).tail).announceTaken [0xC1#8])
    hi (initTable_ne_locked hi hlock) rfl rfl rfl rfl
  obtain ⟨t₂, h₂, hpin₂⟩ := exists_acceptsWith_digitalRead
    (s := t₁.takenUnder .quiet ((differingReads i).drop 3) [0x0F#8, i, 0x02#8]) hi hpin₁ rfl rfl rfl rfl hhigh
  have hread : t₂.pin[i.toNat] = .digitalIn := by simpa [hpin₂] using hpin₁
  obtain ⟨t₃, h₃, -⟩ := exists_acceptsWith_digitalRead
    (s := t₂.takenUnder .quiet ((differingReads i).drop 5) [0xEF#8, i, 0x01#8]) hi hread rfl rfl rfl rfl hlow
  refine ⟨differingReads i, t₃.takenUnder .quiet [] [0xEF#8, i, 0x00#8], rfl, ?_, ?_⟩
  · calc Host.Core.run Sys2Proof.core 7 (State.boot p (differingReads i))
      _ = Host.Core.run Sys2Proof.core 6 _ := run_succ (step_boot_quiet p _) 6
      _ = Host.Core.run Sys2Proof.core 4 _ := h₁.run_add 4
      _ = Host.Core.run Sys2Proof.core 2 _ := h₂.run_add 2
      _ = Host.Core.run Sys2Proof.core 0 _ := h₃.run_add 0
  · simp [h₁.sent, h₂.sent, h₃.sent]

end Sys2Proof.Machine
end

section
/-! The encoding family: what the decoder makes of an encoded packet and of a frame it turns away, the lengths of the
opcodes, the frames with one use, and the statements about them. -/

namespace Sys2Proof

/-! ## The codec -/

/-- The frame of a valid packet has a length its opcode allows (R81). -/
theorem lenOK_length_encode {i : Instr} (h : i.wellFormed = true) : lenOK i.opcode (encode i).length = true := by
  cases i with
  | request pl => exact (Laws.FrameLength.request pl h).1
  | _ => rfl

/-- Decode on a frame whose first byte selects an opcode: what is left is the length test and the payload (R111). -/
theorem decode_cons_of_opcodeOf {b0 : Byte} {payload : List Byte} {op : Opcode} (hop : opcodeOf b0 = some op)
    (hn : (b0 :: payload).length ≤ packetMaxSize) :
    decode (b0 :: payload) =
      (if lenOK op (b0 :: payload).length = true then Instr.ofPacket op payload else none).elim
        (.error (.wrongLength op (b0 :: payload).length)) .ok := by
  unfold decode decodeBuffer
  rw [if_neg (by simp), if_neg (Nat.not_lt.mpr hn)]
  simp only [hop]
  split_ifs
  · cases Instr.ofPacket op payload <;> rfl
  · rfl

/-- A first byte that selects an opcode, with a length that opcode does not allow, is rejected for its length (R111). -/
theorem decode_of_wrongLength {b0 : Byte} {payload : List Byte} {op : Opcode} (hop : opcodeOf b0 = some op)
    (hn : (b0 :: payload).length ≤ packetMaxSize) (hlen : lenOK op (b0 :: payload).length = false) :
    decode (b0 :: payload) = .error (.wrongLength op (b0 :: payload).length) := by
  rw [decode_cons_of_opcodeOf hop hn, hlen]
  rfl

/-- A first byte that selects no opcode is rejected for it, in a frame that is not too long (R111). -/
theorem decode_of_unknownOpcode {b0 : Byte} {payload : List Byte} (hop : opcodeOf b0 = none)
    (hn : (b0 :: payload).length ≤ packetMaxSize) : decode (b0 :: payload) = .error (.unknownOpcode b0) := by
  unfold decode decodeBuffer
  rw [if_neg (by simp), if_neg (Nat.not_lt.mpr hn)]
  simp only [hop]

/-- Decode inverts Encode on the valid packets (R115). -/
theorem decode_encode {i : Instr} (h : i.wellFormed = true) : decode (encode i) = .ok i := by
  have hlen := lenOK_length_encode h
  obtain ⟨-, hn⟩ := lenOK_bounds hlen
  unfold encode at hlen hn ⊢
  rw [decode_cons_of_opcodeOf (opcodeOf_value i.opcode) hn, if_pos hlen, ofPacket_opcode_payload]
  rfl

/-- Opcodes with the same fixed length allow that length only (R84). -/
theorem lenOK_iff_of_fixedLength {ops : List Opcode} {k n : Nat} (h : ∀ op ∈ ops, op.fixedLength = some k) :
    ∀ op ∈ ops, lenOK op n = true ↔ n = k := by
  intro op hop
  simp [lenOK, h op hop]

/-- A REQUEST may have any length from 1 to PACKET_MAX_SIZE (R84). -/
theorem lenOK_request_iff {n : Nat} : lenOK .request n = true ↔ 1 ≤ n ∧ n ≤ packetMaxSize := by
  simp [lenOK, Opcode.fixedLength]

/-! ## The statements: the codec -/

/-- Settles O1: the eleven frames encode valid packets, and the other three fail one test of Decode each. -/
theorem specWordsDecode : Obligations.SpecWordsDecode :=
  ⟨decode_encode (i := .ping) rfl, decode_encode (i := .reset) rfl, decode_encode (i := .startup) rfl,
    decode_encode (i := .ledHigh) rfl, decode_encode (i := .ledLow) rfl, decode_encode (i := .digitalRead 5#8) rfl,
    decode_encode (i := .error 1#8) rfl, decode_encode (i := .pinInit 5#8 3#8) rfl,
    decode_encode (i := .pinAck 5#8 3#8) rfl, decode_encode (i := .digitalData 5#8 1#8) rfl,
    decode_encode (i := .request [0xDE#8, 0xAD#8]) rfl, rfl,
    decode_of_unknownOpcode (by decide) (by decide), decode_of_wrongLength (by decide) (by decide) (by decide)⟩

/-- Settles O4: three fixed lengths, and the range of REQUEST. -/
theorem lengthsOfOpcodes : Obligations.LengthsOfOpcodes :=
  fun _ => ⟨lenOK_iff_of_fixedLength (by decide), lenOK_iff_of_fixedLength (by decide),
    lenOK_iff_of_fixedLength (by decide), lenOK_request_iff⟩

namespace Machine

/-! ## Frames with one use -/

/-- The first byte of a reply that a REQUEST_POLICY of its own may answer with (log 3). -/
theorem opcode_of_offered_reply {s : State} {f : Frame} {x : Byte} {xs : List Byte} (hr : replyFrame f = true)
    (hf : offered (s.putFrame f) = .ok (x :: xs)) : x ∈ [0x18#8, 0xC0#8, 0x55#8, 0xAA#8, 0xFF#8, 0x17#8] := by
  rw [offered_putFrame] at hf
  obtain rfl := Except.ok.inj hf
  obtain ⟨i, hi, ha⟩ := replyFrame_eq_true hr
  obtain ⟨hx, -⟩ := List.cons.inj (eq_encode_of_decode hi)
  cases i with
  | startup | digitalRead | pinInit | pinAck | digitalData => simp [replyAllowed] at ha
  | ping | reset | ledHigh | ledLow | error | request => simp [hx, Opcode.value, Instr.opcode]

section OneUse
variable {i : Instr} {s t : State} {xs : List Byte}

/-- What is offered after an instruction is the frame in TX. -/
theorem Effect.txFrame_eq_of_offered {f : Frame} (h : Effect i s t) (hf : offered t = .ok f) : txFrame t = f := by
  obtain ⟨_, _, _, g, -, -, rfl⟩ := h.eq_putFrame
  rw [offered_putFrame] at hf
  rw [txFrame_putFrame, Except.ok.inj hf]

/-- An ERROR carries one of the two codes (R90, R170). -/
theorem Effect.error_code (h : Effect i s t) (hf : offered t = .ok (0xFF#8 :: xs)) : xs = [0x01#8] ∨ xs = [0x02#8] :=
  error_code_of_lawful (h.txFrame_eq_of_offered hf ▸ h.lawful)

/-- A PIN_ACK answers only a successful PIN_INIT (R143). -/
theorem Effect.pinInit_of_pinAck (h : Effect i s t) (hf : offered t = .ok (0x0F#8 :: xs)) :
    ∃ (p d : Byte) (hp : p.toNat < numPins), i = .pinInit p d ∧ xs = [p, d] ∧ s.pin[p.toNat] ≠ .locked ∧
      dirState d = some t.pin[p.toNat] := by
  cases h with
  | init p d st hp hi hd hl =>
    exact ⟨p, d, hp, hi, by simpa using hf.symm, hl, by simpa using hd⟩
  | reply _ _ _ hr => exact absurd (opcode_of_offered_reply hr hf) (by decide)
  | pong | error | table | ledOn | ledOff | read => simp at hf

/-- A DIGITAL_DATA answers only a successful DIGITAL_READ (R146). -/
theorem Effect.digitalRead_of_digitalData (h : Effect i s t) (hf : offered t = .ok (0xEF#8 :: xs)) :
    ∃ (p : Byte) (hp : p.toNat < numPins) (v : Bool), i = .digitalRead p ∧ s.pin[p.toNat] = .digitalIn ∧
      xs = [p, levelByte v] := by
  cases h with
  | read p hp hi hin => exact ⟨p, hp, _, hi, hin, by simpa using hf.symm⟩
  | reply _ _ _ hr => exact absurd (opcode_of_offered_reply hr hf) (by decide)
  | pong | error | table | ledOn | ledOff | init => simp at hf

/-- Among the responses a STARTUP answers only RESET (R131). -/
theorem Effect.reset_of_startup (h : Effect i s t) (hf : offered t = .ok (0xC1#8 :: xs)) : i = .reset ∧ xs = [] := by
  cases h with
  | table hi => exact ⟨hi, by simpa using hf.symm⟩
  | reply _ _ _ hr => exact absurd (opcode_of_offered_reply hr hf) (by decide)
  | pong | error | ledOn | ledOff | init | read => simp at hf

end OneUse

/-- Settles O55: one lemma about the effects of an instruction for each of the four frames. -/
theorem peripheralFramesHaveOneUse : Obligations.PeripheralFramesHaveOneUse := by
  intro i s t xs h
  have he := effect_of_exec h
  refine ⟨he.error_code, fun hf => ?_, fun hf => ?_, he.reset_of_startup⟩
  · obtain ⟨p, d, hp, hi, hxs, hl, hd⟩ := he.pinInit_of_pinAck hf
    exact ⟨p, d, hp, hi, hxs, hl, dirState_eq_some hd⟩
  · obtain ⟨p, hp, v, hi, hin, rfl⟩ := he.digitalRead_of_digitalData hf
    exact ⟨p, hp, hi, hin, by cases v <;> simp⟩

/-- Settles O54: each text is computed from a packet or a frame without variables. -/
theorem textOfPackets : Obligations.TextOfPackets := by
  unfold Obligations.TextOfPackets
  decide

end Machine
end Sys2Proof
end

section
/-! The codec family: Decode and Encode as inverses, which frames decode, what the step from IDLE does with a frame of
either kind, the map of R118 against the machine, and the statements about them. -/

namespace Sys2Proof

/-! ## Which frames decode -/

/-- OpcodeOf selects an opcode exactly for the byte of ValueOf (R112). -/
theorem opcodeOf_eq_some_iff {x : Byte} {op : Opcode} : opcodeOf x = some op ↔ op.value = x := by
  constructor
  · exact value_of_opcodeOf
  · rintro rfl
    exact opcodeOf_value op

/-- A packet is valid exactly when its frame is not too long (R81, R84). -/
theorem wellFormed_iff_length_encode (i : Instr) : i.wellFormed = true ↔ (encode i).length ≤ packetMaxSize := by
  cases i with
  | request pl => simp [Instr.wellFormed, Nat.add_comm]
  | _ => exact iff_of_true rfl (by simp [packetMaxSize])

/-- Decode answers a packet exactly on the frame of that packet, where it is valid (R115). -/
theorem decode_eq_ok_iff {b : Frame} {i : Instr} : decode b = .ok i ↔ i.wellFormed = true ∧ encode i = b := by
  constructor
  · intro h
    obtain ⟨rfl, hn⟩ := decodeBuffer_eq_ok h
    exact ⟨(wellFormed_iff_length_encode i).mpr hn, rfl⟩
  · rintro ⟨hi, rfl⟩
    exact decode_encode hi

/-- The frame of a packet: a first byte that selects its opcode, then its payload (R114). -/
theorem encode_eq_cons_iff {i : Instr} {b0 : Byte} {payload : List Byte} :
    encode i = b0 :: payload ↔ opcodeOf b0 = some i.opcode ∧ i.payload = payload := by
  rw [encode, List.cons.injEq, opcodeOf_eq_some_iff]

/-- A payload of a length that an opcode allows has the shape of that opcode (R84, R85). -/
theorem exists_ofPacket_of_lenOK {op : Opcode} {payload : List Byte} (h : lenOK op (payload.length + 1) = true) :
    ∃ i, Instr.ofPacket op payload = some i := by
  cases op with
  | request => exact ⟨.request payload, rfl⟩
  | ping | reset | startup | ledHigh | ledLow =>
    obtain rfl := List.length_eq_zero_iff.mp (Nat.succ.inj (eq_of_beq h))
    exact ⟨_, rfl⟩
  | digitalRead | error =>
    obtain ⟨x, rfl⟩ := List.length_eq_one_iff.mp (Nat.succ.inj (eq_of_beq h))
    exact ⟨_, rfl⟩
  | pinInit | pinAck | digitalData =>
    obtain ⟨x, y, rfl⟩ := List.length_eq_two.mp (Nat.succ.inj (eq_of_beq h))
    exact ⟨_, rfl⟩

/-- Every frame of more than 100 bytes is rejected for its length (R111). -/
theorem decodeBuffer_of_oversize {n : Nat} (h : packetMaxSize < n) (bs : List Byte) :
    decodeBuffer n bs = .error .oversize := by
  unfold decodeBuffer
  rw [if_neg (Nat.ne_of_gt (Nat.zero_lt_of_lt h)), if_pos h]

/-- The receive buffer, where RX_LEN saturates and 100 bytes are kept, decodes as the frame itself (R111, R34). -/
theorem Machine.received_eq_decode (b : Frame) : Machine.received b = decode b := by
  unfold Machine.received decode
  by_cases hn : b.length ≤ 100
  · rw [List.take_of_length_le hn, Nat.min_eq_left (by omega)]
  · rw [decodeBuffer_of_oversize (by simp only [packetMaxSize]; omega), decodeBuffer_of_oversize (Nat.not_le.mp hn)]

/-! ## The statements: the codec -/

/-- Settles O5: all three parts are readings of `decode_eq_ok_iff`. -/
theorem decodeEncodeAgree : Obligations.DecodeEncodeAgree :=
  ⟨fun _ hi => decode_encode hi, fun _ _ => decode_eq_ok_iff.mp,
    fun _ _ _ hb hc => (eq_encode_of_decode hb).trans (eq_encode_of_decode hc).symm⟩

/-- Settles O3: a frame decodes exactly when it is the encoding of a valid packet, and the length its opcode implies
makes it one. -/
theorem decodeAcceptsExactlyValidFrames : Obligations.DecodeAcceptsExactlyValidFrames := by
  refine ⟨fun b i => ⟨fun h => ?_, ?_⟩, ?_, fun _ r _ => r.code_eq, Machine.received_eq_decode⟩
  · obtain ⟨hi, rfl⟩ := decode_eq_ok_iff.mp h
    exact ⟨(wellFormed_iff_length_encode i).mp hi, _, _, rfl, opcodeOf_value _, lenOK_length_encode hi, rfl⟩
  · rintro ⟨hn, b0, payload, rfl, hop, -, hpl⟩
    have hb := encode_eq_cons_iff.mpr ⟨hop, hpl⟩
    exact decode_eq_ok_iff.mpr ⟨(wellFormed_iff_length_encode i).mpr (hb ▸ hn), hb⟩
  · rintro _ hn ⟨b0, payload, op, rfl, hop, hlen⟩
    obtain ⟨i, hi⟩ := exists_ofPacket_of_lenOK hlen
    exact ⟨i, by rw [decode_cons_of_opcodeOf hop hn, if_pos hlen, hi]; rfl⟩

/-- Settles O2: the byte of each opcode, read off the list. -/
theorem opcodeOfMatchesElevenBytes : Obligations.OpcodeOfMatchesElevenBytes := by
  intro x op
  rw [opcodeOf_eq_some_iff]
  cases op <;> simp [Opcode.value, eq_comm]

namespace Machine

/-! ## What an instruction does, case by case -/

section ExecCases
variable {s : State} {p d : Byte} {i : Instr}

/-- PING (R134). -/
theorem exec_ping (s : State) : exec .ping s = .next (s.putFrame [0x18#8]) :=
  respond_of_length (f := [0x18#8]) (by decide) (by decide) s

/-- RESET (R132). -/
theorem exec_reset (s : State) :
    exec .reset s = .next (({ s with pin := initTable s.params.lockedPins } : State).putFrame [0xC1#8]) :=
  respond_of_length (f := [0xC1#8]) (by decide) (by decide) _

/-- LED_HIGH (R160). -/
theorem exec_ledHigh (s : State) : exec .ledHigh s = .next (({ s with led := true } : State).putFrame [0x55#8]) :=
  respond_of_length (f := [0x55#8]) (by decide) (by decide) _

/-- LED_LOW (R161). -/
theorem exec_ledLow (s : State) : exec .ledLow s = .next (({ s with led := false } : State).putFrame [0xAA#8]) :=
  respond_of_length (f := [0xAA#8]) (by decide) (by decide) _

/-- A peripheral-to-host opcode received as a request is turned away (R83, R117). -/
theorem exec_of_not_fromHost (h : i.opcode.fromHost = false) (s : State) :
    exec i s = .next (s.putFrame [0xFF#8, 0x02#8]) := by
  cases i with
  | startup | error | pinAck | digitalData => exact refuseDirection_eq s
  | ping | reset | ledHigh | ledLow | digitalRead | pinInit | request => cases h

/-- REQUEST under the default policy (R172). -/
theorem exec_request_of_default (h : s.params.requestPolicy = .errorInvalidPacket) (payload : List Byte) :
    exec (.request payload) s = .next (s.putFrame [0xFF#8, 0x02#8]) := by
  simp only [exec, execRequest, h, raise_eq, errorByte_invalidPacket]

/-- DIGITAL_READ of a pin that is out of range or not DIGITAL_IN (R145). -/
theorem exec_digitalRead_of_not_digitalIn (h : s.pin[p.toNat]? ≠ some .digitalIn) :
    exec (.digitalRead p) s = .next (s.putFrame [0xFF#8, 0x01#8]) := by
  by_cases hp : p.toNat < numPins
  · have hn : s.pin[p.toNat] ≠ .digitalIn := by simpa [hp] using h
    simp only [exec, execDigitalRead, pinTableGet_of_lt hp, isDigitalIn_eq_true, if_neg hn, raise_eq,
      errorByte_invalidPin]
  · simp only [exec, execDigitalRead, pinTableGet_of_ge (Nat.not_lt.mp hp), raise_eq, errorByte_invalidPin]

/-- PIN_INIT with an illegal direction byte, whatever the pin (R140, R141, D13). -/
theorem exec_pinInit_of_illegal (h : dirState d = none) (p : Byte) :
    exec (.pinInit p d) s = .next (s.putFrame [0xFF#8, 0x02#8]) := by
  simp only [exec, execPinInit, h, raise_eq, errorByte_invalidPacket]

/-- PIN_INIT with a legal direction of a pin that is out of range or LOCKED (R141). -/
theorem exec_pinInit_of_refused {st : PinState} (hd : dirState d = some st)
    (h : numPins ≤ p.toNat ∨ s.pin[p.toNat]? = some .locked) :
    exec (.pinInit p d) s = .next (s.putFrame [0xFF#8, 0x01#8]) := by
  by_cases hp : p.toNat < numPins
  · have hl : s.pin[p.toNat] = .locked := by simpa [hp, Nat.not_le.mpr hp] using h
    simp only [exec, execPinInit, hd, pinTableGet_of_lt hp, isLocked_eq_true.mpr hl, if_true, raise_eq,
      errorByte_invalidPin]
  · simp only [exec, execPinInit, hd, pinTableGet_of_ge (Nat.not_lt.mp hp), raise_eq, errorByte_invalidPin]

end ExecCases

/-- Settles O19: the four opcodes are those the host may not send. -/
theorem peripheralOpcodesAnswerInvalidPacket : Obligations.PeripheralOpcodesAnswerInvalidPacket := by
  intro s x y i hi
  have hdir : i.opcode.fromHost = false := by
    simp only [List.mem_cons, List.not_mem_nil, or_false] at hi
    obtain rfl | rfl | rfl | rfl := hi <;> rfl
  exact exec_of_not_fromHost hdir s

/-! ## The step from IDLE with a frame at the port -/

section Accepting
variable {s : State} {p : Inputs} {rest : List Inputs} {b : Frame}

/-- In IDLE the frame at the port is accepted under the port values of the step, and its exchange runs (R110). -/
theorem step_accepts (hp : s.phase = .idle) (hin : s.inputs = p :: rest) (hr : p.rst = false)
    (hb : p.rxFrame = some b) :
    step s = exchange (({ s with ports := p, inputs := rest } : State).accept b) := by
  have hl := State.latch_cons hin
  rw [step_of_frame (b := b) (by simp [hl, hr]) hp (by simp [hl, hb]), hl]

/-- The state after that step: the frame is in RX, one response of 1 to 100 bytes is in TX, PHASE is BUSY, and only the
table, the LED and the record of samples may have been written besides (R110, R119). -/
theorem eq_putFrame_of_step_accepts {t : State} (hp : s.phase = .idle) (hin : s.inputs = p :: rest)
    (hr : p.rst = false) (hb : p.rxFrame = some b) (h : step s = .next t) :
    ∃ (table : PinTable) (led : Bool) (sampled : List Nat) (f : Frame), 1 ≤ f.length ∧ f.length ≤ 100 ∧
      t = ({ ({ s with ports := p, inputs := rest } : State).accept b with
        pin := table, led := led, sampled := sampled } : State).putFrame f := by
  have hl := State.latch_cons hin
  obtain ⟨i, he⟩ := effect_of_step_of_frame (b := b) (by simp [hl, hr]) hp (by simp [hl, hb]) h
  rw [hl] at he
  exact he.eq_putFrame

/-- Every frame accepted from IDLE is answered with one frame of 1 to 100 bytes (R119, D21). -/
theorem exists_acceptsWith (hp : s.phase = .idle) (hin : s.inputs = p :: rest) (hr : p.rst = false)
    (hb : p.rxFrame = some b) : ∃ t f, AcceptsWith s f rest t ∧ 1 ≤ f.length ∧ f.length ≤ 100 := by
  obtain ⟨t, ht⟩ := exists_exchange_accept { s with ports := p, inputs := rest } b
  have hstep : step s = .next t := (step_accepts hp hin hr hb).trans ht
  obtain ⟨_, _, _, f, h1, hn, rfl⟩ := eq_putFrame_of_step_accepts hp hin hr hb hstep
  exact ⟨_, f, ⟨hstep, rfl, rfl, rfl, offered_putFrame _ f⟩, h1, hn⟩

end Accepting

/-- Settles O26: the exchange of a frame that decodes is `exec` of its packet. -/
theorem stepRunsDecodedInstruction : Obligations.StepRunsDecodedInstruction := by
  intro s p rest b i hp hin hr hb hd
  rw [step_accepts hp hin hr hb, exchange_accept_of_received (by rw [received_eq_decode, hd])]
  rfl

/-- Settles O28: the exchange of a frame that does not decode puts the ERROR frame into TX. -/
theorem stepAnswersUndecodableFrame : Obligations.StepAnswersUndecodableFrame := by
  intro s p rest b r hp hin hr hb hd
  rw [step_accepts hp hin hr hb, exchange_accept_of_rejected (r := r) (by rw [received_eq_decode, hd])]
  rfl

/-- Settles O49: the step that accepts the frame answers it, and the run of its exchange hands that answer over. -/
theorem everyRequestGetsExactlyOneResponse : Obligations.EveryRequestGetsExactlyOneResponse := by
  intro s p q stalls rest b hp hin hr hb hs hqr hqt
  obtain ⟨t, f, ht, h1, hn⟩ := exists_acceptsWith hp hin hr hb
  refine ⟨t, _, f, ht.next, ht.offers, h1, hn, ht.run hs hqr hqt, ?_⟩
  rw [← ht.sent]
  rfl

/-! ## The map of R118 -/

/-- What an exchange has left in a state, as the map of R118 gives it. -/
def State.answer (t : State) : Answer := ⟨t.pin, t.led, txFrame t⟩

@[simp] theorem State.answer_putFrame (s : State) (f : Frame) : (s.putFrame f).answer = ⟨s.pin, s.led, f⟩ := by
  simp [State.answer]

/-- R118 and R211 speak of the same table. -/
theorem startupTable_eq_initTable (locked : BitVec numPins) : startupTable locked = initTable locked := by
  ext i hi
  rw [getElem_initTable locked i hi, startupTable, Vector.getElem_ofFn]

section RequestMap
variable {locked level : BitVec numPins} {pin : PinTable} {led : Bool}

/-- The map turns away every frame that does not decode (R118). -/
theorem requestMap_of_decode_error {b : Frame} {r : DecodeReject} (h : decode b = .error r) :
    requestMap locked level pin led b = ⟨pin, led, [0xFF#8, 0x02#8]⟩ := by
  have hne (i : Instr) (hi : i.wellFormed = true) : b ≠ encode i := by
    rintro rfl
    rw [decode_encode hi] at h
    cases h
  match b with
  | [op] =>
    have hping : op ≠ 0x18#8 := by simpa using hne .ping rfl
    have hreset : op ≠ 0xC0#8 := by simpa using hne .reset rfl
    have hledHigh : op ≠ 0x55#8 := by simpa using hne .ledHigh rfl
    have hledLow : op ≠ 0xAA#8 := by simpa using hne .ledLow rfl
    simp [requestMap, hping, hreset, hledHigh, hledLow]
  | [op, i] =>
    have hread : op ≠ 0x10#8 := by simpa using hne (.digitalRead i) rfl
    simp [requestMap, hread]
  | [op, i, d] =>
    have hinit : op ≠ 0xF0#8 := by simpa using hne (.pinInit i d) rfl
    simp [requestMap, hinit]
  | [] => rfl
  | _ :: _ :: _ :: _ :: _ => rfl

/-- The map turns away every frame of a peripheral-to-host opcode (R117, R118). -/
theorem requestMap_encode_of_not_fromHost {i : Instr} (h : i.opcode.fromHost = false) :
    requestMap locked level pin led (encode i) = ⟨pin, led, [0xFF#8, 0x02#8]⟩ := by
  cases i with
  | startup | error | pinAck | digitalData => simp [requestMap]
  | ping | reset | ledHigh | ledLow | digitalRead | pinInit | request => cases h

/-- The map turns away every REQUEST (R118, R172). -/
theorem requestMap_encode_request (payload : List Byte) :
    requestMap locked level pin led (encode (.request payload)) = ⟨pin, led, [0xFF#8, 0x02#8]⟩ := by
  match payload with
  | [] | [_] | [_, _] => simp [requestMap]
  | _ :: _ :: _ :: _ => rfl

end RequestMap

/-- Setting a slot of the table with the bounds check of R118's row. -/
theorem set_eq_setIfInBounds (t : PinTable) {i : Nat} (hi : i < numPins) (st : PinState) :
    t.set i st = t.setIfInBounds i st := by
  ext j hj
  rw [Vector.getElem_set, Vector.getElem_setIfInBounds]

/-- Under the default policy an instruction answers what the map gives for its frame (R118). -/
theorem answer_of_exec {s : State} (hpol : s.params.requestPolicy = .errorInvalidPacket) (i : Instr) :
    ∃ t, exec i s = .next t ∧
      t.answer = requestMap s.params.lockedPins s.ports.pinLevel s.pin s.led (encode i) := by
  cases i with
  | ping => exact ⟨_, exec_ping s, by simp [requestMap]⟩
  | reset => exact ⟨_, exec_reset s, by simp [requestMap, startupTable_eq_initTable]⟩
  | ledHigh => exact ⟨_, exec_ledHigh s, by simp [requestMap]⟩
  | ledLow => exact ⟨_, exec_ledLow s, by simp [requestMap]⟩
  | startup | error | pinAck | digitalData =>
    exact ⟨_, exec_of_not_fromHost rfl s, by rw [requestMap_encode_of_not_fromHost rfl, State.answer_putFrame]⟩
  | request payload =>
    exact ⟨_, exec_request_of_default hpol payload, by rw [requestMap_encode_request, State.answer_putFrame]⟩
  | digitalRead p =>
    by_cases h : s.pin[p.toNat]? = some .digitalIn
    · obtain ⟨hp, hin⟩ := Vector.getElem?_eq_some_iff.mp h
      exact ⟨_, exec_digitalRead_of_digitalIn hp hin, by simp [requestMap, h, levelByte]⟩
    · exact ⟨_, exec_digitalRead_of_not_digitalIn h, by simp [requestMap, h]⟩
  | pinInit p d =>
    cases hd : dirState d with
    | none =>
      have hin : d ≠ 0x02#8 := by rintro rfl; cases hd
      have hout : d ≠ 0x03#8 := by rintro rfl; cases hd
      exact ⟨_, exec_pinInit_of_illegal hd p, by simp [requestMap, hin, hout]⟩
    | some st =>
      have hlegal : d = 0x02#8 ∨ d = 0x03#8 := (dirState_eq_some hd).imp And.left And.left
      have hst : st = if d = 0x02#8 then .digitalIn else .digitalOut := by
        obtain ⟨rfl, rfl⟩ | ⟨rfl, rfl⟩ := dirState_eq_some hd <;> rfl
      by_cases h : 70 ≤ p.toNat ∨ s.pin[p.toNat]? = some .locked
      · exact ⟨_, exec_pinInit_of_refused hd h, by simp [requestMap, hlegal, h]⟩
      · obtain ⟨hlt, hl⟩ := not_or.mp h
        have hp : p.toNat < numPins := Nat.not_le.mp hlt
        refine ⟨_, exec_pinInit_of_unlocked hp hd (by simpa [hp] using hl), ?_⟩
        simp [requestMap, hlegal, h, set_eq_setIfInBounds _ hp, hst]

/-- Under the default policy the exchange of an accepted frame answers what the map gives for it: a frame that decodes is
the frame of its packet, and the map turns away every other (R118). -/
theorem answer_of_exchange {s : State} (hpol : s.params.requestPolicy = .errorInvalidPacket) (b : Frame) :
    ∃ t, exchange (s.accept b) = .next t ∧
      t.answer = requestMap s.params.lockedPins s.ports.pinLevel s.pin s.led b := by
  cases hd : received b with
  | error r =>
    have hdec : decode b = .error r := (received_eq_decode b).symm.trans hd
    exact ⟨_, exchange_accept_of_rejected hd s, by simp [requestMap_of_decode_error hdec]⟩
  | ok i =>
    rw [exchange_accept_of_received hd, eq_encode_of_received hd]
    exact answer_of_exec (s := s.accept (encode i)) hpol i

/-- Settles O48: the exchange answers what the map gives, and the rest of the state is as the step leaves it. -/
theorem exchangeIsRequestMap : Obligations.ExchangeIsRequestMap := by
  intro s p rest b hp hin hr hb hpol
  obtain ⟨t, ht, hans⟩ := answer_of_exchange (s := { s with ports := p, inputs := rest }) hpol b
  have hstep : step s = .next t := (step_accepts hp hin hr hb).trans ht
  obtain ⟨_, _, _, f, -, -, rfl⟩ := eq_putFrame_of_step_accepts hp hin hr hb hstep
  exact ⟨_, hstep, hans, by simp, rfl, rfl, rfl, rfl, rfl⟩

end Machine
end Sys2Proof
end

section
/-! The system command family: RESET, PING and the announcement, and the statements about them. -/

namespace Sys2Proof.Machine

/-- InitTable leaves no slot DIGITAL_IN: each one is LOCKED or UNUSED (R211). -/
theorem initTable_ne_digitalIn (locked : BitVec numPins) (j : Nat) : (initTable locked)[j]? ≠ some .digitalIn := by
  by_cases hj : j < numPins
  · rw [Vector.getElem?_eq_getElem hj, getElem_initTable]
    cases locked.getLsbD j <;> simp
  · simp [Vector.getElem?_eq_none (Nat.not_lt.mp hj)]

/-- Settles O40: RESET leaves the table of InitTable, where no pin passes the check of DIGITAL_READ. -/
theorem resetForgetsConfiguration : Obligations.ResetForgetsConfiguration := by
  intro s t i h
  rw [exec_reset] at h
  cases h
  exact ⟨_, exec_digitalRead_of_not_digitalIn (initTable_ne_digitalIn _ _), offered_putFrame _ _, rfl⟩

/-- Settles O11: PING is `exec_ping`, and two bytes are no length for it. -/
theorem pingEchoes : Obligations.PingEchoes :=
  ⟨exec_ping, _, decode_of_wrongLength (op := .ping) (by decide) (by decide) (by decide)⟩

/-- Settles O14: the table RESET writes is that of InitTable, and two bytes are no length for it. -/
theorem resetCommandReinitialises : Obligations.ResetCommandReinitialises :=
  ⟨fun s => ⟨_, exec_reset s, getElem_initTable s.params.lockedPins⟩, _,
    decode_of_wrongLength (op := .reset) (by decide) (by decide) (by decide)⟩

/-- Settles O15: the table RESET writes is a function of LOCKED_PINS alone, which RESET does not write. -/
theorem resetTwiceIsResetOnce : Obligations.ResetTwiceIsResetOnce :=
  fun s => ⟨_, _, exec_reset s, exec_reset _, rfl, offered_putFrame _ _, offered_putFrame _ _⟩

/-- Settles O32: the case of ANNOUNCE, with the transport not ready and ready. -/
theorem announcementHandedOverOnce : Obligations.AnnouncementHandedOverOnce := by
  intro s p rest hp hin hr hf
  have hl := State.latch_cons hin
  refine ⟨fun ht => ?_, fun ht => ?_⟩
  · rw [step_of_wait (by simp [hl, hr]) (by simp [hp]) (by simp [hl, ht]), hl]
  · rw [step_of_announce (by simp [hl, hr]) hp (by simp [hl, ht]) hf, hl]; rfl

end Sys2Proof.Machine
end

section
/-! The pin command family: PIN_INIT and DIGITAL_READ in all their cases. -/

namespace Sys2Proof.Machine

/-- The direction bytes 02 and 03 are legal (R87). -/
theorem exists_dirState_of_legal {d : Byte} (h : d = 0x02#8 ∨ d = 0x03#8) : ∃ st, dirState d = some st := by
  obtain rfl | rfl := h
  · exact ⟨_, dirState_in⟩
  · exact ⟨_, dirState_out⟩

/-- PIN_INIT with a legal direction of a LOCKED pin (R142). -/
theorem exec_pinInit_of_locked {s : State} {p d : Byte} (hp : p.toNat < numPins) (hl : s.pin[p.toNat] = .locked)
    (hd : d = 0x02#8 ∨ d = 0x03#8) : exec (.pinInit p d) s = .next (s.putFrame [0xFF#8, 0x01#8]) := by
  obtain ⟨_, hst⟩ := exists_dirState_of_legal hd
  exact exec_pinInit_of_refused hst (.inr (Vector.getElem?_eq_some_iff.mpr ⟨hp, hl⟩))

/-- Settles O16: the direction is illegal, or legal with a pin that is out of range, LOCKED, or open to it. -/
theorem pinInitCases : Obligations.PinInitCases := by
  refine fun s i d => ⟨fun hin hout => ?illegal, fun hd hi => ?outOfRange, fun hi hd hl => ?locked,
    fun hi hl => ⟨?input, ?output⟩⟩
  case illegal => exact exec_pinInit_of_illegal (dirState_eq_none hin hout) i
  case outOfRange =>
    obtain ⟨_, hst⟩ := exists_dirState_of_legal hd
    exact exec_pinInit_of_refused hst (.inl hi)
  case locked => exact exec_pinInit_of_locked hi hl hd
  case input => rintro rfl; exact exec_pinInit_of_unlocked hi dirState_in hl
  case output => rintro rfl; exact exec_pinInit_of_unlocked hi dirState_out hl

/-- Settles O17: on a LOCKED pin PIN_INIT answers an error, for its direction or the pin, and writes no slot. -/
theorem pinInitNeverChangesLockedPin : Obligations.PinInitNeverChangesLockedPin := by
  intro s i d hi hl
  by_cases hd : d = 0x02#8 ∨ d = 0x03#8
  · exact ⟨_, exec_pinInit_of_locked hi hl hd, rfl, fun _ => offered_putFrame _ _⟩
  · obtain ⟨hin, hout⟩ := not_or.mp hd
    exact ⟨_, exec_pinInit_of_illegal (dirState_eq_none hin hout) i, rfl, fun h => absurd h hd⟩

/-- Settles O18: the pin is out of range, not DIGITAL_IN, or DIGITAL_IN; one byte and three are no length for
DIGITAL_READ. -/
theorem digitalReadCases : Obligations.DigitalReadCases := by
  refine ⟨fun s i => ⟨fun hi => ?outOfRange, fun hi hn => ?notInput, fun hi hin => ?input⟩, ?tooShort, ?tooLong⟩
  case outOfRange => exact exec_digitalRead_of_not_digitalIn (by simp [Vector.getElem?_eq_none hi])
  case notInput => exact exec_digitalRead_of_not_digitalIn fun h => hn (Vector.getElem?_eq_some_iff.mp h).2
  case input => exact exec_digitalRead_of_digitalIn hi hin
  case tooShort => exact ⟨_, decode_of_wrongLength (op := .digitalRead) (by decide) (by decide) (by decide)⟩
  case tooLong => exact ⟨_, decode_of_wrongLength (op := .digitalRead) (by decide) (by decide) (by decide)⟩

end Sys2Proof.Machine
end

section
/-! The LED command family: LED_HIGH and LED_LOW. -/

namespace Sys2Proof.Machine

/-- Settles O12: LED_HIGH is `exec_ledHigh`, and two bytes are no length for it. -/
theorem ledHighSetsLatch : Obligations.LedHighSetsLatch :=
  ⟨exec_ledHigh, _, decode_of_wrongLength (op := .ledHigh) (by decide) (by decide) (by decide)⟩

/-- Settles O13: LED_LOW is `exec_ledLow`, and two bytes are no length for it. -/
theorem ledLowClearsLatch : Obligations.LedLowClearsLatch :=
  ⟨exec_ledLow, _, decode_of_wrongLength (op := .ledLow) (by decide) (by decide) (by decide)⟩

end Sys2Proof.Machine
end

section
/-! The REQUEST family: which REQUEST frames decode, and what REQUEST answers under the default policy and under every
policy. -/

namespace Sys2Proof.Machine

/-- Settles O6: up to 99 payload bytes the frame encodes a valid packet, and with more of them it is oversized. -/
theorem requestDecodesAtEveryLength : Obligations.RequestDecodesAtEveryLength := by
  refine fun payload => ⟨fun h => ?fits, fun h => ?oversized⟩
  case fits =>
    have hn : (encode (.request payload)).length ≤ packetMaxSize := Nat.succ_le_succ h
    exact decode_encode ((wellFormed_iff_length_encode _).mpr hn)
  case oversized => exact decodeBuffer_of_oversize (Nat.succ_lt_succ h) _

/-- Settles O20: `exec_request_of_default` gives the whole next state. -/
theorem requestUnderDefaultPolicy : Obligations.RequestUnderDefaultPolicy :=
  fun _ payload hpol => exec_request_of_default hpol payload

section Extension
variable {s : State} {payload : List Byte}

/-- A policy of its own answers with its reply, where the general rules allow that frame (R172, log 3). -/
theorem exec_request_of_replyFrame (hpol : s.params.requestPolicy = .extension)
    (hr : replyFrame (Config.requestReply payload s.pin) = true) :
    exec (.request payload) s = .next (s.putFrame (Config.requestReply payload s.pin)) := by
  obtain ⟨h1, hn⟩ := length_of_isPacket (isPacket_of_replyFrame hr)
  simp only [exec, execRequest, hpol, if_pos hr, respond_of_length h1 hn]

/-- A reply that the general rules do not allow is answered as the default (R172, log 3). -/
theorem exec_request_of_not_replyFrame (hpol : s.params.requestPolicy = .extension)
    (hr : ¬ replyFrame (Config.requestReply payload s.pin) = true) :
    exec (.request payload) s = .next (s.putFrame [0xFF#8, 0x02#8]) := by
  simp only [exec, execRequest, hpol, if_neg hr, raise_eq, errorByte_invalidPacket]

end Extension

/-- Under every policy the response is a frame a REQUEST may be answered with, and only TX is written: `[FF 02]` is such
a frame too. -/
theorem exists_exec_request (s : State) (payload : List Byte) :
    ∃ f, exec (.request payload) s = .next (s.putFrame f) ∧ replyFrame f = true := by
  have hdefault : replyFrame [0xFF#8, 0x02#8] = true := by decide
  cases hpol : s.params.requestPolicy with
  | errorInvalidPacket => exact ⟨_, exec_request_of_default hpol payload, hdefault⟩
  | extension =>
    by_cases hr : replyFrame (Config.requestReply payload s.pin) = true
    · exact ⟨_, exec_request_of_replyFrame hpol hr, hr⟩
    · exact ⟨_, exec_request_of_not_replyFrame hpol hr, hdefault⟩

/-- The packets a REQUEST may be answered with, listed (log 3): an ERROR among them carries code 01 or 02 (R90). -/
theorem replyAllowed_iff_mem (i : Instr) : replyAllowed i = true ↔
    i ∈ [.ping, .reset, .ledHigh, .ledLow, .error 0x01#8, .error 0x02#8, .request i.payload] := by
  cases i with
  | error c =>
    have hc : (errorOfByte c).isSome = true ↔ c = 0x01#8 ∨ c = 0x02#8 := by
      rw [errorOfByte_eq]
      split_ifs <;> simp [*]
    simp [replyAllowed, hc]
  | ping | reset | ledHigh | ledLow | request => simp [replyAllowed, Instr.payload]
  | startup | digitalRead | pinInit | pinAck | digitalData => simp [replyAllowed]

/-- Settles O21: the response is a frame of `replyFrame`, hence a packet, hence of 1 to 100 bytes. -/
theorem requestUnderEveryPolicy : Obligations.RequestUnderEveryPolicy := by
  intro s payload
  obtain ⟨f, hexec, hr⟩ := exists_exec_request s payload
  obtain ⟨h1, hn⟩ := length_of_isPacket (isPacket_of_replyFrame hr)
  obtain ⟨i, hi, ha⟩ := replyFrame_eq_true hr
  exact ⟨f, i, hexec, h1, hn, hi, (replyAllowed_iff_mem i).mp ha⟩

end Sys2Proof.Machine
end

section
/-! The exception family: which error an exchange answers, and that no state of the invariant stops. -/

namespace Sys2Proof.Machine

/-- The frames refused for their pin (R140, R186): a PIN_INIT with a legal direction and a pin that is out of range or
LOCKED, a DIGITAL_READ of a pin that is out of range or not DIGITAL_IN. -/
def PinCause (pin : PinTable) (b : Frame) : Prop :=
  (∃ i d : Byte, b = [0xF0#8, i, d] ∧ (d = 0x02#8 ∨ d = 0x03#8) ∧ (70 ≤ i.toNat ∨ pin[i.toNat]? = some .locked)) ∨
  (∃ i : Byte, b = [0x10#8, i] ∧ (70 ≤ i.toNat ∨ pin[i.toNat]? ≠ some .digitalIn))

section PinCauses
variable {pin : PinTable} {op i d : Byte}

/-- A frame of three bytes is refused for its pin only as a PIN_INIT. -/
theorem pinCause_three_bytes : PinCause pin [op, i, d] ↔
    (op = 0xF0#8 ∧ (d = 0x02#8 ∨ d = 0x03#8)) ∧ (70 ≤ i.toNat ∨ pin[i.toNat]? = some .locked) := by
  simp [PinCause, and_assoc]

/-- A frame of two bytes is refused for its pin only as a DIGITAL_READ, and a slot that reads DIGITAL_IN is in range. -/
theorem pinCause_two_bytes : PinCause pin [op, i] ↔ op = 0x10#8 ∧ pin[i.toNat]? ≠ some .digitalIn := by
  have hrange : 70 ≤ i.toNat → pin[i.toNat]? ≠ some .digitalIn := fun h => by simp [Vector.getElem?_eq_none h]
  simp [PinCause, or_iff_right_of_imp hrange]

/-- The map of R118 answers ERROR(INVALID_PIN) exactly for those frames: every other error of it is INVALID_PACKET, and
a success answers no ERROR (R186). -/
theorem requestMap_response_invalidPin_iff {locked level : BitVec numPins} {led : Bool} {b : Frame} :
    (requestMap locked level pin led b).response = [0xFF#8, 0x01#8] ↔ PinCause pin b := by
  match b with
  | [] | _ :: _ :: _ :: _ :: _ => simp [requestMap, PinCause]
  | [op] =>
    simp only [requestMap]
    split_ifs <;> simp [PinCause]
  | [op, i] =>
    rw [pinCause_two_bytes]
    simp only [requestMap]
    split_ifs <;> simp [*]
  | [op, i, d] =>
    rw [pinCause_three_bytes]
    simp only [requestMap]
    split_ifs <;> simp [*]

end PinCauses

/-- Settles O42: the response the step offers is the one the map of R118 gives. -/
theorem invalidPinExactlyForPinCauses : Obligations.InvalidPinExactlyForPinCauses := by
  intro s t p rest b hp hin hr hb hpol h
  have hmap : txFrame t = (requestMap s.params.lockedPins p.pinLevel s.pin s.led b).response := by
    obtain ⟨u, hu, hans, -⟩ := exchangeIsRequestMap s p rest b hp hin hr hb hpol
    cases h.symm.trans hu
    exact congrArg Answer.response hans
  have hoffered : offered t = .ok (txFrame t) := by
    obtain ⟨_, _, _, f, -, -, rfl⟩ := eq_putFrame_of_step_accepts hp hin hr hb h
    simp
  rw [hoffered, hmap, Except.ok.injEq]
  exact requestMap_response_invalidPin_iff

/-- Settles O52: the offered frame of such a state can be read, and every exchange answers. -/
theorem stepIsTotalUnderInvariant : Obligations.StepIsTotalUnderInvariant :=
  fun _ => exists_step_of_inv

end Sys2Proof.Machine
end

section
/-! The reset and hazard family: hardware reset against everything else and against RESET, what makes a slot readable,
what a response cannot depend on, InitTable, and the output ports. -/

namespace Sys2Proof.Machine

/-! ## InitTable and hardware reset -/

/-- Settles O10: `getElem_initTable`, slot by slot. -/
theorem initTableLocksExactlyLockedPins : Obligations.InitTableLocksExactlyLockedPins :=
  getElem_initTable

/-- A step with `rst` at the port is hardware reset, whatever the phase (R191, R210). -/
theorem step_of_inputs_rst {s : State} {p : Inputs} {rest : List Inputs} (hin : s.inputs = p :: rest)
    (hr : p.rst = true) : step s = .next ({ s with ports := p, inputs := rest } : State).hardwareReset := by
  have hl := State.latch_cons hin
  rw [step_of_rst (by simp [hl, hr]), hl]

/-- Settles O30: the step is `State.hardwareReset`, read off field by field. -/
theorem hardwareResetFromAnyState : Obligations.HardwareResetFromAnyState := by
  intro s p rest hin hr
  refine ⟨_, step_of_inputs_rst hin hr, fun i h => getElem_initTable s.params.lockedPins i h, rfl, rfl, rfl, rfl,
    fun a => ?_, rfl, rfl, rfl, rfl⟩
  rw [State.hardwareReset_tx, Memory.read_ofFrame]

/-- Settles O41: both write the table of InitTable and put STARTUP into TX, and RESET writes nothing else. -/
theorem hardwareResetAgainstResetCommand : Obligations.HardwareResetAgainstResetCommand := by
  intro s t u p rest hin hr ht hu
  rw [step_of_inputs_rst hin hr] at ht
  rw [exec_reset] at hu
  cases ht
  cases hu
  have hoffered := offered_of_tx (State.hardwareReset_tx { s with ports := p, inputs := rest }) rfl
  exact ⟨rfl, by rw [hoffered, offered_putFrame], rfl, rfl, rfl, rfl, rfl, rfl⟩

/-! ## What makes a slot readable -/

/-- What a step can do to a slot: leave it, initialise the table by one of the two resets, or obey a PIN_INIT that names
it (R23). -/
theorem slot_cases_of_step {s t : State} (h : step s = .next t) (j : Nat) (hj : j < numPins) :
    t.pin[j] = s.pin[j] ∨
    ((s.latch.ports.rst = true ∨ s.phase = .idle ∧ s.latch.ports.rxFrame = some [0xC0#8]) ∧
      t.pin = initTable s.params.lockedPins) ∨
    ∃ p d : Byte, p.toNat = j ∧ s.phase = .idle ∧ s.latch.ports.rxFrame = some [0xF0#8, p, d] ∧
      dirState d = some t.pin[j] := by
  cases steps_of_step h with
  | reset hr => exact .inr (.inl ⟨.inl hr, by simp⟩)
  | executed b i _ hp hb hd he =>
    have hfr := rxFrame_eq_encode hb hd
    obtain hsame | ⟨rfl, htab⟩ | ⟨p, d, st, hpj, rfl, hdir, -, rfl, -⟩ := he.slot_cases j hj
    · exact .inl (by simpa using hsame)
    · exact .inr (.inl ⟨.inr ⟨hp, hfr⟩, by simpa using htab⟩)
    · exact .inr (.inr ⟨p, d, hpj, hp, hfr, hdir⟩)
  | _ => exact .inl (by simp)

/-- Settles O38: the resets leave no slot DIGITAL_IN, and a PIN_INIT leaves the state of its direction. -/
theorem readablePinWasInitialisedForInput : Obligations.ReadablePinWasInitialisedForInput := by
  intro s t i hi h
  obtain hsame | ⟨hreset, htab⟩ | ⟨p, d, hpi, hp, hfr, hdir⟩ := slot_cases_of_step h i.toNat hi
  · exact ⟨fun ht hs => absurd (hsame.symm.trans ht) hs, fun hs ht => absurd (hsame.trans hs) ht⟩
  · have hne : t.pin[i.toNat] ≠ .digitalIn := fun ht =>
      initTable_ne_digitalIn s.params.lockedPins i.toNat (Vector.getElem?_eq_some_iff.mpr ⟨hi, htab ▸ ht⟩)
    exact ⟨fun ht => absurd ht hne, fun _ _ => hreset.imp_right (.imp_right .inl)⟩
  · obtain rfl : p = i := BitVec.eq_of_toNat_eq hpi
    obtain ⟨rfl, ht⟩ | ⟨rfl, ht⟩ := dirState_eq_some hdir
    · exact ⟨fun _ _ => ⟨hp, hfr⟩, fun _ hn => absurd ht hn⟩
    · exact ⟨fun hn => by simp [ht] at hn, fun _ _ => .inr ⟨hp, .inr hfr⟩⟩

/-! ## What a response cannot depend on (R226) -/

/-- An instruction run with another LED leads to the same state but for the LED (R226). -/
theorem exec_withLed (i : Instr) (s : State) (v : Bool) :
    ∃ (t : State) (w : Bool), exec i s = .next t ∧ exec i { s with led := v } = .next { t with led := w } := by
  cases i with
  | ping => exact ⟨_, v, exec_ping s, exec_ping _⟩
  | reset => exact ⟨_, v, exec_reset s, exec_reset _⟩
  | ledHigh => exact ⟨_, true, exec_ledHigh s, exec_ledHigh _⟩
  | ledLow => exact ⟨_, false, exec_ledLow s, exec_ledLow _⟩
  | startup | error | pinAck | digitalData => exact ⟨_, v, exec_of_not_fromHost rfl s, exec_of_not_fromHost rfl _⟩
  | digitalRead p =>
    by_cases h : s.pin[p.toNat]? = some .digitalIn
    · obtain ⟨hp, hin⟩ := Vector.getElem?_eq_some_iff.mp h
      exact ⟨_, v, exec_digitalRead_of_digitalIn hp hin, exec_digitalRead_of_digitalIn hp hin⟩
    · exact ⟨_, v, exec_digitalRead_of_not_digitalIn h, exec_digitalRead_of_not_digitalIn h⟩
  | pinInit p d =>
    cases hd : dirState d with
    | none => exact ⟨_, v, exec_pinInit_of_illegal hd p, exec_pinInit_of_illegal hd p⟩
    | some st =>
      by_cases h : numPins ≤ p.toNat ∨ s.pin[p.toNat]? = some .locked
      · exact ⟨_, v, exec_pinInit_of_refused hd h, exec_pinInit_of_refused hd h⟩
      · obtain ⟨hlt, hl⟩ := not_or.mp h
        have hp : p.toNat < numPins := Nat.not_le.mp hlt
        have hl' : s.pin[p.toNat] ≠ .locked := by simpa [hp] using hl
        exact ⟨_, v, exec_pinInit_of_unlocked hp hd hl', exec_pinInit_of_unlocked hp hd hl'⟩
  | request payload =>
    cases hpol : s.params.requestPolicy with
    | errorInvalidPacket =>
      exact ⟨_, v, exec_request_of_default hpol _, exec_request_of_default (s := { s with led := v }) hpol _⟩
    | extension =>
      by_cases hr : replyFrame (Config.requestReply payload s.pin) = true
      · exact ⟨_, v, exec_request_of_replyFrame hpol hr, exec_request_of_replyFrame hpol hr⟩
      · exact ⟨_, v, exec_request_of_not_replyFrame hpol hr, exec_request_of_not_replyFrame hpol hr⟩

/-- Settles O43: the two runs of the instruction differ in the LED alone. -/
theorem ledNeverInfluencesResponse : Obligations.LedNeverInfluencesResponse := by
  intro i s t v h
  obtain ⟨t', w, ht, hu⟩ := exec_withLed i s v
  cases h.symm.trans ht
  exact ⟨_, hu, rfl, rfl, rfl⟩

/-- The map of R118 reads of the table, for its response and the LED, only the slot of the packet's `pin` byte. -/
theorem requestMap_encode_congr {locked level : BitVec numPins} {pin pin' : PinTable} {led : Bool} {i : Instr}
    (h : ∀ p : Byte, (i = .digitalRead p ∨ ∃ d, i = .pinInit p d) → pin'[p.toNat]? = pin[p.toNat]?) :
    (requestMap locked level pin' led (encode i)).response = (requestMap locked level pin led (encode i)).response ∧
    (requestMap locked level pin' led (encode i)).led = (requestMap locked level pin led (encode i)).led := by
  cases i with
  | ping | reset | ledHigh | ledLow => simp [requestMap]
  | startup | error | pinAck | digitalData =>
    rw [requestMap_encode_of_not_fromHost rfl, requestMap_encode_of_not_fromHost rfl]
    exact ⟨rfl, rfl⟩
  | request payload => simp only [requestMap_encode_request, and_self]
  | digitalRead p =>
    simp only [encode_digitalRead, requestMap, h p (.inl rfl)]
    split_ifs <;> exact ⟨rfl, rfl⟩
  | pinInit p d =>
    simp only [encode_pinInit, requestMap, h p (.inr ⟨d, rfl⟩)]
    split_ifs <;> exact ⟨rfl, rfl⟩

/-- An instruction's response is the frame in TX. -/
theorem offered_of_exec {i : Instr} {s t : State} (h : exec i s = .next t) : offered t = .ok (txFrame t) := by
  obtain ⟨_, _, _, f, -, -, rfl⟩ := (effect_of_exec h).eq_putFrame
  rw [offered_putFrame, txFrame_putFrame]

/-- Settles O44: the response and the LED are those of the map of R118, which reads only the named slot. -/
theorem tableInfluencesResponseOnlyThroughNamedSlot : Obligations.TableInfluencesResponseOnlyThroughNamedSlot := by
  intro i s t table hpol hslot h
  have hnamed (p : Byte) (hi : i = .digitalRead p ∨ ∃ d, i = .pinInit p d) : table[p.toNat]? = s.pin[p.toNat]? := by
    by_cases hp : p.toNat < numPins
    · rw [Vector.getElem?_eq_getElem hp, Vector.getElem?_eq_getElem hp, hslot p hp hi]
    · rw [Vector.getElem?_eq_none (Nat.not_lt.mp hp), Vector.getElem?_eq_none (Nat.not_lt.mp hp)]
  obtain ⟨t', ht, hans⟩ := answer_of_exec hpol i
  cases h.symm.trans ht
  obtain ⟨u, hu, hans'⟩ := answer_of_exec (s := { s with pin := table }) hpol i
  obtain ⟨hresponse, hled⟩ := requestMap_encode_congr (locked := s.params.lockedPins) (level := s.ports.pinLevel)
    (led := s.led) hnamed
  rw [← hans, ← hans'] at hresponse hled
  refine ⟨u, hu, ?_, hled⟩
  rw [offered_of_exec hu, offered_of_exec h]
  exact congrArg Except.ok hresponse

/-! ## The output ports -/

/-- `tx_len` and `tx_data` show the one frame TX holds, and the 7 bits of `tx_len` are enough for it (R35, R216). -/
theorem txPorts_of_txFits {s : State} (h : TxFits s) :
    s.txLenOut.toNat = (txFrame s).length ∧ s.txLenOut.toNat = s.txLen ∧ ∀ k, s.txData k = (txFrame s)[k]? := by
  obtain ⟨-, hn, hmap⟩ := h
  have hlen : (txFrame s).length = s.txLen := by simpa [txFrame] using congrArg List.length hmap
  have hport : s.txLenOut.toNat = s.txLen := by
    rw [State.txLenOut, BitVec.toNat_ofNat]
    exact Nat.mod_eq_of_lt (by omega)
  refine ⟨hport.trans hlen.symm, hport, fun k => ?_⟩
  rw [State.txData, Memory.eq_ofFrame hmap, Memory.read_ofFrame, txFrame]

/-- Settles O46: the ready and valid ports by the phase, the frame ports by what TX holds, the codes by the state. -/
theorem outputPortsShowState : Obligations.OutputPortsShowState := by
  intro s
  refine ⟨by simp [State.rxReady], by simp [State.txValid], fun _ hfits => ?_, rfl, fun i => ?_⟩
  · exact ⟨offered_of_txFits hfits, txPorts_of_txFits hfits⟩
  · show stateCode s.pin[i] = _
    cases s.pin[i] <;> rfl

end Sys2Proof.Machine
end

section
/-! The host's way in: what the decoder reads from a table word is what the step after `withFetchWord` runs (log 13,
log 14). -/

namespace Sys2Proof

/-- The decoder reads an instruction from a table word exactly when the word's frame decodes to it. -/
theorem decodeTableWord_eq_some_iff {nbits w : Nat} {i : Instr} :
    decodeTableWord nbits w = some i ↔ decode (tableFrame nbits w) = .ok i := by
  unfold decodeTableWord
  cases decode (tableFrame nbits w) <;> simp

namespace Machine

/-- A frame that decodes stands in the receive buffer whole: `fetch` reads the encoding of its packet. -/
theorem fetch_accept_of_decode {b : Frame} {i : Instr} (h : decode b = .ok i) (s : State) :
    fetch (s.accept b) = .ok (encode i) := by
  obtain ⟨hb, hn⟩ := decodeBuffer_eq_ok h
  rw [fetch_accept, List.take_of_length_le hn, hb]

/-- Settles O27: `withFetchWord` leaves the block in IDLE with the word's frame at the port, so the step accepts that
frame and runs its packet. -/
theorem fetchWordRunsInNextStep : Obligations.FetchWordRunsInNextStep := by
  intro s nbits w i h
  have hd := decodeTableWord_eq_some_iff.mp h
  have hstep := step_accepts (State.withFrame_phase s (tableFrame nbits w)) (State.withFrame_inputs s _) rfl rfl
  have hexec := hstep.trans (exchange_accept_of_received ((received_eq_decode _).trans hd) _)
  exact ⟨_, hexec, rfl, rfl, rfl, rfl, rfl, rfl, fetch_accept_of_decode hd _⟩

end Machine
end Sys2Proof
end
